-- ==== Sys2Proof/Word.lean ====
section
/-! DEFINITION. The words of the NL7208: bytes of the intake link and of reply records, 24-bit sample
values, and the levels and orders that the commands carry as operands. -/

namespace Sys2Proof

/-- A byte of an intake message, a command argument or a reply record (R170). -/
abbrev Byte := BitVec 8

/-- A sample value, fill value, latest cell or hold cell: 24 bits (R170). -/
abbrev Sample := BitVec 24

/-- A value of the time counter: 48 bits (R118). -/
abbrev Time := BitVec 48

/-- The level of a pin. -/
inductive Level where
  | low
  | high
  deriving DecidableEq, Repr

/-- Which user of a REFCLK edge is served first when the edge makes a bit strobe: the time base, or the strobe
and the fetch it may be. The spec gives the result of each order (R121, R122) and does not choose. -/
inductive EdgeOrder where
  | timeBaseFirst
  | strobeFirst
  deriving DecidableEq, Repr

end Sys2Proof
end

