-- ==== Sys2Proof/Syntax.lean ====
section
/-! DEFINITION. The commands of the block: one constructor for each row of spec/opcode_table.json. A row whose
summary begins 'Take of' takes its operands from the oldest record of the command queue (R151), so its
constructor has none. -/

namespace Sys2Proof

/-- The steps of the NL7208 (95_what_each_step_holds.md: each whole and indivisible). -/
inductive Instr where
  /-- PIN_RESET_ASSERT (R66, R116): RESETN is low, with LMODE presenting the level `lmode` (R109). -/
  | pinResetAssert (lmode : Level)
  /-- PIN_RESET_RELEASE (R109): RESETN rises, with these levels on the three straps. -/
  | pinResetRelease (lmode adr1 adr0 : Level)
  /-- MESSAGE_COMPLETION (R162): IFRM rises. -/
  | messageCompletion
  /-- WORD_FETCH (R28): the bit strobe that begins a word. -/
  | wordFetch
  /-- TIME_COUNTER_ADVANCE (R118): the prescaler count reaches P. -/
  | timeCounterAdvance
  /-- VALIDATION_COMPLETION (R24). -/
  | validationCompletion
  /-- PING (R154). -/
  | ping
  /-- RESET_PART_RESTART (R158). -/
  | resetPartRestart
  /-- RESET_PART_FULL (R159). -/
  | resetPartFull
  /-- DEFINE_CHANNEL (R84). -/
  | defineChannel
  /-- UNDEFINE_CHANNEL (R88). -/
  | undefineChannel
  /-- READ_CHANNEL (R89). -/
  | readChannel
  /-- SET_FRAME (R3). -/
  | setFrame
  /-- WRITE_SLOTS (R7). -/
  | writeSlots
  /-- WRITE_ROTATION (R9). -/
  | writeRotation
  /-- WRITE_PICKS (R11). -/
  | writePicks
  /-- CLEAR_BANK (R14). -/
  | clearBank
  /-- READ_BANK (R15). -/
  | readBank
  /-- SWITCH (R56). -/
  | switch
  /-- STOP (R61). -/
  | stop
  /-- SET_TIMEBASE (R119). -/
  | setTimebase
  /-- SET_TIME (R120). -/
  | setTime
  /-- READ_COUNTERS (R143). -/
  | readCounters
  /-- CLEAR_COUNTERS (R144). -/
  | clearCounters
  /-- UNKNOWN_COMMAND (R151). -/
  | unknownCommand
  /-- IFRM_FALL (R161). -/
  | ifrmFall
  /-- ICLK_RISING_EDGE (R161), with the level of IDAT at the edge. -/
  | iclkRisingEdge (idat : Level)
  /-- BIT_STROBE (R110); in FOLLOWER mode a falling edge of OCLK (R114). -/
  | bitStrobe
  /-- REFCLK_RISING_EDGE (R111, R118), with the order in which the edge's users are served where both are allowed. -/
  | refclkRisingEdge (order : EdgeOrder)
  /-- RESET_PART_REFUSED (R155). -/
  | resetPartRefused
  deriving DecidableEq, Repr

end Sys2Proof
end

