-- ==== Sys2Proof/Decode.lean ====
section
/-! DEFINITION. The words that spell a command. spec/opcode_table.json gives no row bits ("fields": [] throughout,
no fixed bits), so no word spells a command. The in-band command records (R153, R172) are decoded at their take,
in Machine/Operands.lean. -/

namespace Sys2Proof

/-- The command that a word of `nbits` bits spells by the table's bits: none, since the table gives no row bits
(log 14). -/
def decodeTableWord (_nbits _w : Nat) : Option Instr := none

end Sys2Proof
end

