-- ==== Sys2Proof/Machine/State.lean ====
section
/-! DEFINITION. The state of the NL7208 as plain data, block by block, and its value at power-up. The list that
this file must hold is INVENTORY.md, '## State'. -/

namespace Sys2Proof.Machine

/-- What stops the part. The spec names no event that stops it: errors are counted, flagged or answered with a
status (R139, R142, R162), so there is no constructor and no step faults. -/
inductive Fault where
  deriving DecidableEq, Repr

/-- What the model has no meaning for. -/
inductive Refusal where
  /-- Raised by `exec` alone, for a command not yet modelled; safe. No arm raises it. -/
  | notModelled (mnemonic : String)
  deriving DecidableEq, Repr

/-- A store of contents by number, canonical when `Table.wf` holds: numbers strictly rising, no entry equal to what
an unlisted number holds (log 13). -/
abbrev Table (α : Type) := List (Nat × α)

/-! ### Pins and straps (00_scope.md, Pins; R109) -/

/-- The link mode selected by LMODE (R109). -/
inductive LinkMode where
  | follower
  | master
  deriving DecidableEq, Repr

/-- Levels the part must remember, and the straps captured at the last release of RESETN (R109). -/
structure Pins where
  /-- RESETN; low is asserted. -/
  resetn : Level
  /-- LMODE as presented while RESETN is asserted; it decides the drive of OCLK there (R109). -/
  lmode : Level
  /-- IFRM; low is asserted (R161). -/
  ifrm : Level
  linkMode : LinkMode
  nodeAddress : BitVec 2
  deriving DecidableEq, Repr

/-! ### Intake interface (R161) -/

/-- The message in reception. The counts of whole bytes and of bits are the lengths of the two lists. -/
structure Intake where
  receiving : Bool
  buffer : List Byte
  /-- Bits of the byte being assembled, first received first. -/
  bits : List Bool
  overlong : Bool
  deriving DecidableEq, Repr

/-! ### Channel table and sample store (R70, R92) -/

/-- Freshness of a LATEST channel (R77). -/
inductive Freshness where
  | never
  | fresh
  | stale
  deriving DecidableEq, Repr

/-- Stale policy (R39). -/
inductive StalePolicy where
  | hold
  | fill
  deriving DecidableEq, Repr

/-- Overflow policy (R98). -/
inductive OverflowPolicy where
  | dropNew
  | dropOld
  deriving DecidableEq, Repr

/-- The fields of R70 that belong to LATEST alone. -/
structure LatestPart where
  freshness : Freshness
  age : Nat
  limit : Nat
  policy : StalePolicy
  notify : Bool
  deriving DecidableEq, Repr

/-- The fields of R70 that belong to QUEUED alone; the queue is oldest first (R94). -/
structure QueuedPart where
  limit : Nat
  policy : OverflowPolicy
  queue : List Sample
  deriving DecidableEq, Repr

/-- The kind of a channel with the fields of that kind (R70, R71). -/
inductive Keeping where
  | undefined
  | latest (p : LatestPart)
  | queued (p : QueuedPart)
  deriving DecidableEq, Repr

/-- The seven per-channel counters (R82). -/
structure ChannelCounters where
  received : BitVec 16
  overflow : BitVec 16
  gapLost : BitVec 16
  duplicate : BitVec 16
  late : BitVec 16
  underrun : BitVec 16
  staleCapture : BitVec 16
  deriving DecidableEq, Repr

/-- All seven counters at 0. -/
def ChannelCounters.zero : ChannelCounters := ⟨0, 0, 0, 0, 0, 0, 0⟩

/-- A channel record (R70). -/
structure Channel where
  keeping : Keeping
  fill : Sample
  seqCheck : Bool
  lastSeq : Option Byte
  latestCell : Sample
  holdCell : Sample
  activeRef : Bool
  pendingRef : Bool
  counters : ChannelCounters
  deriving DecidableEq, Repr

/-- The record of an UNDEFINED channel: every field 0, absent or off (R70, R88, R91). -/
def Channel.blank : Channel := ⟨.undefined, 0, false, none, 0, 0, false, false, .zero⟩

/-! ### Format banks (R1 to R12) -/

/-- The two banks (R1). -/
inductive BankId where
  | a
  | b
  deriving DecidableEq, Repr

/-- A format that can be in force (R26). -/
inductive Format where
  | boot
  | bank (x : BankId)
  deriving DecidableEq, Repr

/-- Bank state (R12). -/
inductive BankState where
  | editable
  | validating
  | pending
  | active
  deriving DecidableEq, Repr

/-- Frame geometry (R2). -/
structure Geometry where
  /-- W -/
  width : Nat
  /-- F -/
  length : Nat
  /-- C -/
  depth : Nat
  fill : BitVec 16
  /-- N -/
  ratioN : BitVec 16
  /-- D -/
  ratioD : BitVec 24
  deriving DecidableEq, Repr, Inhabited

/-- How a reference reads its channel (R38). -/
inductive RefMode where
  | capture
  | held
  deriving DecidableEq, Repr

/-- A slot descriptor (R5). -/
inductive Slot where
  | empty
  | const (value : BitVec 16)
  | fill
  | frameIndex
  | frameCount
  | time (shift width : Nat)
  | health
  | reply
  | channel (channel : Nat) (mode : RefMode) (signed : Bool) (shift width : Nat)
  | packed (first count : Nat)
  | rotate (list : Nat)
  deriving DecidableEq, Repr

/-- A pick (R10). -/
inductive Pick where
  | unset
  | channelBit (channel bit : Nat) (mode : RefMode)
  | zero
  | one
  deriving DecidableEq, Repr

/-- A format bank (R1). Template, lists and picks are listed where they are not EMPTY, empty or UNSET. -/
structure Bank where
  geometry : Option Geometry
  template : Table Slot
  rotation : Table (List Slot)
  picks : Table Pick
  state : BankState
  deriving DecidableEq, Repr

/-- A cleared, EDITABLE bank (R14, R25). -/
def Bank.clear : Bank := ⟨none, [], [], [], .editable⟩

/-! ### Format engine (R26, R55) -/

/-- The pending switch record (R55). -/
structure PendingSwitch where
  target : Format
  tag : Byte
  deriving DecidableEq, Repr

/-- The format engine. `frameIndex = none` is first-frame, `frameCount = none` is absent (R26). -/
structure Engine where
  inForce : Format
  place : Nat
  frameIndex : Option Nat
  frameCount : Option (BitVec 32)
  pendingSwitch : Option PendingSwitch
  activeRefs : List Nat
  pendingRefs : List Nat
  deriving DecidableEq, Repr

/-- The engine after every kind of reset (R26, R55). -/
def Engine.reset : Engine := ⟨.boot, 0, none, none, none, [], []⟩

/-! ### Output serializer and pacer (R110) -/

/-- OCLK as the part drives it; undriven in FOLLOWER mode (R109). -/
inductive ClockDrive where
  | undriven
  | low
  | high
  deriving DecidableEq, Repr

/-- A word being shifted out, with the width it was fetched with (R110). -/
structure OutWord where
  width : Nat
  bits : BitVec 16
  deriving DecidableEq, Repr

/-- The serializer and the pacer. -/
structure Serializer where
  word : Option OutWord
  remaining : Nat
  ratioN : BitVec 16
  ratioD : BitVec 24
  accumulator : Nat
  oclk : ClockDrive
  odat : Level
  ofrm : Level
  /-- The model's own (log 4): the pacer's last edge made a bit strobe that has not happened yet. -/
  strobeDue : Bool
  deriving DecidableEq, Repr

/-! ### Time base (R118) -/

/-- The model's own (log 4): what of the last REFCLK edge the time base has still to take. -/
inductive EdgeWork where
  /-- nothing -/
  | taken
  /-- its count, which is to follow the strobe that the same edge makes (R121, frame start first) -/
  | afterStrobe
  /-- its count, which completes P: the advance of TIME_COUNTER_ADVANCE -/
  | advanceDue
  deriving DecidableEq, Repr

/-- The time base. -/
structure TimeBase where
  counter : Time
  /-- P -/
  prescaler : Nat
  count : Nat
  load : Option Time
  latch : Time
  edge : EdgeWork
  deriving DecidableEq, Repr

/-! ### Command processor (R147, R149) and validation (R16 to R24) -/

/-- A command record (R147). -/
structure CmdRecord where
  tag : Byte
  code : Byte
  args : List Byte
  deriving DecidableEq, Repr

/-- The fourteen validation reasons (11.5). -/
inductive Reason where
  | noGeometry | rate | noReply | narrowReply | slotEmpty | rotationLength | rotationEmpty
  | constTooWide | fieldTooWide | packTooWide | pickUnset | channelUndefined | kindMismatch | heldBeforeCapture
  deriving DecidableEq, Repr

/-- A finding: reason, frame and place (R24). -/
structure Finding where
  reason : Reason
  frame : Nat
  place : Nat
  deriving DecidableEq, Repr

/-- The four whole-format tests (R17). -/
inductive WholeTest where
  | geometry | rate | reply | narrow
  deriving DecidableEq, Repr

/-- How far a validation has come: the next whole-format test; the next place of the next frame, with the channels
captured so far in that frame and referenced so far in all; or ended, with a finding or with the referenced channel
set (R16, R18, R23, R24). -/
inductive Progress where
  | test (t : WholeTest)
  | examine (frame place : Nat) (captured refs : List Nat)
  | found (f : Finding)
  | passed (refs : List Nat)
  deriving DecidableEq, Repr

/-- A validation in progress: its bank, the tag of its SWITCH and its progress. -/
structure Validation where
  bank : BankId
  tag : Byte
  progress : Progress
  deriving DecidableEq, Repr

/-! ### Reply queue (R124) -/

/-- A reservation (R124). -/
structure Reservation where
  tag : Byte
  code : Byte
  size : Nat
  deriving DecidableEq, Repr

/-- The reply queue: records oldest first, emission position in the head, reservations. -/
structure ReplyQueue where
  records : List (List Byte)
  position : Nat
  reservations : List Reservation
  deriving DecidableEq, Repr

/-! ### Health logic (R136, R142) -/

/-- The nine latched flags (R136). -/
inductive LatchedFlag where
  | intakeErr | cmdLost | sampleDrop | underrun | stale | seqFault | noticeLost | orphan | restarted
  deriving DecidableEq, Repr

/-- The twelve device counters (R142), in the order of its table. -/
structure DeviceCounters where
  framingErrors : BitVec 16
  lengthErrors : BitVec 16
  crcErrors : BitVec 16
  kindErrors : BitVec 16
  orphanSamples : BitVec 16
  commandsLost : BitVec 16
  noticesLost : BitVec 16
  switchesDone : BitVec 16
  validationFailures : BitVec 16
  overflowDrops : BitVec 16
  underruns : BitVec 16
  seqFaults : BitVec 16
  deriving DecidableEq, Repr

/-- All twelve counters at 0. -/
def DeviceCounters.zero : DeviceCounters := ⟨0, 0, 0, 0, 0, 0, 0, 0, 0, 0, 0, 0⟩

/-- The health logic; the latched flags stand at their positions in the health word (R136). -/
structure Health where
  latched : BitVec 16
  counters : DeviceCounters
  deriving DecidableEq, Repr

/-! ### The whole part -/

/-- The state of the NL7208, and the queue of the commands that are waiting to be executed. -/
structure State where
  pending : List Instr
  pins : Pins
  intake : Intake
  channels : Table Channel
  freeCells : Nat
  bankA : Bank
  bankB : Bank
  engine : Engine
  serial : Serializer
  timeBase : TimeBase
  commands : List CmdRecord
  /-- The validation in progress; the command processor is BUSY exactly while there is one (R149). -/
  validation : Option Validation
  replies : ReplyQueue
  health : Health
  deriving DecidableEq, Repr

/-- The intake interface after a pin reset (R168). -/
def Intake.idle : Intake := ⟨false, [], [], false⟩

/-- The serializer during a pin reset with LMODE presenting the level given (R109, R116). -/
def Serializer.reset (lmode : Level) : Serializer :=
  ⟨none, 0, 1, 64, 0, (match lmode with | .high => .high | .low => .undriven), .low, .high, false⟩

/-- The time base after a pin reset (R123). -/
def TimeBase.reset : TimeBase := ⟨0, 1, 0, none, 0, .taken⟩

/-- The health logic after a pin reset and a FULL reset: RESTARTED alone set, counters 0 (R146). -/
def Health.reset : Health := ⟨0x1000, .zero⟩

/-- The reply queue emptied by a reset (R134). -/
def ReplyQueue.empty : ReplyQueue := ⟨[], 0, []⟩

/-- The part at power-up, which counts as the assertion of RESETN (00_scope.md, Resets): every block at its
pin-reset values. The levels of LMODE and IFRM, and the straps before any release, are DESIGN CHOICE (log 8). -/
def State.reset : State where
  pending := []
  pins := ⟨.low, .low, .high, .follower, 0⟩
  intake := .idle
  channels := []
  freeCells := 2048
  bankA := .clear
  bankB := .clear
  engine := .reset
  serial := .reset .low
  timeBase := .reset
  commands := []
  validation := none
  replies := .empty
  health := .reset

end Sys2Proof.Machine
end

