-- ==== Sys2Proof/Config.lean ====
section
/-! DEFINITION. Free values: contents the spec does not state. None of them can be reached by a part whose formats
were put in force by validation (R17 to R23, R27); they are here so that no state stops the model (log 12). -/

namespace Sys2Proof

open Machine

/-- The content of a place that resolves to no slot with content: EMPTY, which 'marks a place with no content' (R5),
or a ROTATE drawn from a list, which no list accepts (R8). A function of the place. -/
opaque Config.emptyPlaceWord : Nat → BitVec 16

/-- The bit of an UNSET pick, which yields 'none' (R10). A function of the pick's number in its run. -/
opaque Config.unsetPickBit : Nat → Bool

/-- The value of a capture of an UNDEFINED channel, 'not possible in a validated format' (R71). -/
opaque Config.undefinedCapture : Nat → Sample

/-- The geometry of a bank that is in force without one, which R17 rules out. -/
opaque Config.absentGeometry : BankId → Geometry

/-- The status that answers an edit of a VALIDATING bank: 'not met: no command is taken while validation runs'
(R13). -/
opaque Config.unmetStatus : Byte

end Sys2Proof
end

