-- ==== Sys2Proof/Machine/Flags.lean ====
section
/-! DEFINITION. Saturating counters and the health logic: latched flags, device counters, the health word and its
clearing (R136 to R142). -/

namespace Sys2Proof.Machine

/-- A 16-bit count that saturates: an increase that would pass 0xFFFF leaves it at 0xFFFF (R76, R142). -/
def satAdd (c : BitVec 16) (n : Nat) : BitVec 16 := BitVec.ofNat 16 (min 0xFFFF (c.toNat + n))

/-- The position of a latched flag in the health word (R136). -/
def LatchedFlag.position : LatchedFlag → Nat
  | .intakeErr => 0
  | .cmdLost => 1
  | .sampleDrop => 2
  | .underrun => 3
  | .stale => 4
  | .seqFault => 5
  | .noticeLost => 6
  | .orphan => 7
  | .restarted => 12

/-- The positions that hold latched flags (R136): 0 to 7 and 12. -/
def latchedPositions : BitVec 16 := 0x10FF

/-- An event sets its flag; a flag already set stays set (R139). -/
def Health.set (h : Health) (f : LatchedFlag) : Health :=
  { h with latched := h.latched ||| BitVec.ofNat 16 (2 ^ f.position) }

/-- The device counters by name (R142). -/
inductive DeviceCounter where
  | framingErrors | lengthErrors | crcErrors | kindErrors | orphanSamples | commandsLost
  | noticesLost | switchesDone | validationFailures | overflowDrops | underruns | seqFaults
  deriving DecidableEq, Repr

/-- A device counter rises by `n`, saturating (R142). -/
def DeviceCounters.add (d : DeviceCounters) (c : DeviceCounter) (n : Nat) : DeviceCounters :=
  match c with
  | .framingErrors => { d with framingErrors := satAdd d.framingErrors n }
  | .lengthErrors => { d with lengthErrors := satAdd d.lengthErrors n }
  | .crcErrors => { d with crcErrors := satAdd d.crcErrors n }
  | .kindErrors => { d with kindErrors := satAdd d.kindErrors n }
  | .orphanSamples => { d with orphanSamples := satAdd d.orphanSamples n }
  | .commandsLost => { d with commandsLost := satAdd d.commandsLost n }
  | .noticesLost => { d with noticesLost := satAdd d.noticesLost n }
  | .switchesDone => { d with switchesDone := satAdd d.switchesDone n }
  | .validationFailures => { d with validationFailures := satAdd d.validationFailures n }
  | .overflowDrops => { d with overflowDrops := satAdd d.overflowDrops n }
  | .underruns => { d with underruns := satAdd d.underruns n }
  | .seqFaults => { d with seqFaults := satAdd d.seqFaults n }

/-- The twelve counters in the order of the table of R142. -/
def DeviceCounters.inOrder (d : DeviceCounters) : List (BitVec 16) :=
  [d.framingErrors, d.lengthErrors, d.crcErrors, d.kindErrors, d.orphanSamples, d.commandsLost,
    d.noticesLost, d.switchesDone, d.validationFailures, d.overflowDrops, d.underruns, d.seqFaults]

/-- The seven channel counters in the order of R82 and R89. -/
def ChannelCounters.inOrder (k : ChannelCounters) : List (BitVec 16) :=
  [k.received, k.overflow, k.gapLost, k.duplicate, k.late, k.underrun, k.staleCapture]

/-- A latched flag is set. -/
def State.setFlag (s : State) (f : LatchedFlag) : State := { s with health := s.health.set f }

/-- A device counter rises by `n`. -/
def State.count (s : State) (c : DeviceCounter) (n : Nat) : State :=
  { s with health := { s.health with counters := s.health.counters.add c n } }

/-- A device counter rises by `n` and a latched flag is set, at one event. -/
def State.report (s : State) (c : DeviceCounter) (n : Nat) (f : LatchedFlag) : State :=
  (s.count c n).setFlag f

/-- How many of the lowest `k` bits of a word are ones. -/
def onesBelow (w : BitVec 16) : Nat → Nat
  | 0 => 0
  | k + 1 => onesBelow w k + if w.getLsbD k then 1 else 0

/-- The live flags at their positions, computed from the part as it stands (R137). -/
def State.liveFlags (s : State) : BitVec 16 :=
  (if s.engine.inForce ≠ .boot then 0x0100 else 0) |||
  (if s.engine.pendingSwitch.isSome then 0x0200 else 0) |||
  (if s.replies.records ≠ [] then 0x0400 else 0) |||
  (if s.commands ≠ [] then 0x0800 else 0) |||
  (if s.engine.inForce = .bank .b then 0x2000 else 0) |||
  (if s.timeBase.load.isSome then 0x4000 else 0)

/-- Positions 0 to 14 of the health word with the parity bit above them: set when they hold an even number of ones
(R138). -/
def withParity (w : BitVec 16) : BitVec 16 :=
  if onesBelow w 15 % 2 = 0 then w ||| 0x8000 else w

/-- The health word as a HEALTH fetch builds it (R136). -/
def State.healthWord (s : State) : BitVec 16 :=
  withParity ((s.health.latched &&& latchedPositions) ||| s.liveFlags)

/-- After a HEALTH word of `width` bits, each latched flag it carried is clear (R140). -/
def Health.clearCarried (h : Health) (width : Nat) : Health :=
  { h with latched := h.latched &&& ~~~(BitVec.ofNat 16 (2 ^ width - 1)) }

end Sys2Proof.Machine
end

