-- ==== Sys2Proof/Machine/Operands.lean ====
section
/-! DEFINITION. The encodings of chapter 11: fields of bytes, command codes and argument lengths (R153, R172), slot
descriptors and picks (R173) with their write-time checks (R6, R8, R11), status, reason and notice codes. -/

namespace Sys2Proof.Machine

/-! ### Fields of bytes (R170) -/

/-- The unsigned number that bytes spell, most significant byte first (R170). -/
def natOfBytes (bs : List Byte) : Nat := bs.foldl (fun n b => n * 256 + b.toNat) 0

/-- A number as `k` bytes, most significant byte first (R170). -/
def bytesOf : Nat → Nat → List Byte
  | 0, _ => []
  | k + 1, n => BitVec.ofNat 8 (n / 256 ^ k) :: bytesOf k n

/-- The field of `len` bytes at byte `off`. -/
def fieldAt (bs : List Byte) (off len : Nat) : Nat := natOfBytes ((bs.drop off).take len)

/-- The byte at `off`; a byte that is not there reads as 0 (no caller reads one: the lengths are checked first). -/
def byteAt (bs : List Byte) (off : Nat) : Byte := bs.getD off 0

/-- `k` groups of `size` bytes. -/
def groupsOf (size : Nat) : Nat → List Byte → List (List Byte)
  | 0, _ => []
  | k + 1, bs => bs.take size :: groupsOf size k (bs.drop size)

/-- All the values, when every one is present. -/
def allPresent {α : Type} : List (Option α) → Option (List α)
  | [] => some []
  | none :: _ => none
  | some a :: rest => (allPresent rest).map (a :: ·)

/-! ### Commands (R153, 11.3) -/

/-- The commands of the catalogue (R153). -/
inductive Command where
  | ping | resetPart | defineChannel | undefineChannel | readChannel | setFrame | writeSlots | writeRotation
  | writePicks | clearBank | readBank | switch | stop | setTimebase | setTime | readCounters | clearCounters
  deriving DecidableEq, Repr

/-- The command codes (11.3). -/
def Command.code : Command → Byte
  | .ping => 0x01
  | .resetPart => 0x02
  | .defineChannel => 0x10
  | .undefineChannel => 0x11
  | .readChannel => 0x12
  | .setFrame => 0x20
  | .writeSlots => 0x21
  | .writeRotation => 0x22
  | .writePicks => 0x23
  | .clearBank => 0x24
  | .readBank => 0x25
  | .switch => 0x30
  | .stop => 0x31
  | .setTimebase => 0x40
  | .setTime => 0x41
  | .readCounters => 0x50
  | .clearCounters => 0x51

/-- The whole catalogue (R153). -/
def catalogue : List Command :=
  [.ping, .resetPart, .defineChannel, .undefineChannel, .readChannel, .setFrame, .writeSlots, .writeRotation,
    .writePicks, .clearBank, .readBank, .switch, .stop, .setTimebase, .setTime, .readCounters, .clearCounters]

/-- The command a code names, if the catalogue has it (R151 step 3). -/
def commandOf (code : Byte) : Option Command := catalogue.find? fun c => c.code == code

/-- The argument lengths that R153 accepts (R151 step 4). -/
def Command.accepts : Command → Nat → Bool
  | .ping, n => n == 0
  | .resetPart, n => n == 1
  | .defineChannel, n => n == 9
  | .undefineChannel, n => n == 2
  | .readChannel, n => n == 2
  | .setFrame, n => n == 13
  | .writeSlots, n => 9 ≤ n && n ≤ 57 && (n - 3) % 6 == 0
  | .writeRotation, n => 4 ≤ n && n ≤ 52 && (n - 4) % 6 == 0
  | .writePicks, n => 6 ≤ n && n ≤ 51 && (n - 3) % 3 == 0
  | .clearBank, n => n == 1
  | .readBank, n => n == 4
  | .switch, n => n == 1
  | .stop, n => n == 0
  | .setTimebase, n => n == 2
  | .setTime, n => n == 6
  | .readCounters, n => n == 1
  | .clearCounters, n => n == 3

/-- The maximum reply sizes of R153; for RESET_PART the size of its refusal. -/
def Command.maxReply : Command → Nat
  | .ping => 13
  | .readChannel => 32
  | .readBank => 37
  | .switch => 9
  | .stop => 9
  | .readCounters => 29
  | .resetPart | .defineChannel | .undefineChannel | .setFrame | .writeSlots | .writeRotation | .writePicks
  | .clearBank | .setTimebase | .setTime | .clearCounters => 5

/-- The two resets that RESET_PART can name (R155). -/
inductive ResetOption where
  | restart
  | full
  deriving DecidableEq, Repr

/-- The reset that a well-formed RESET_PART names: one argument byte, 0x01 RESTART or 0x02 FULL (R150, 11.3). -/
def resetOption (r : CmdRecord) : Option ResetOption :=
  if r.code = Command.resetPart.code then
    if r.args = [0x01] then some .restart
    else if r.args = [0x02] then some .full
    else none
  else none

/-- The reply space that the take of a record reserves: nothing for a well-formed RESET_PART, otherwise the maximum
reply size, 5 for a code outside the catalogue (R150). -/
def replyNeed (r : CmdRecord) : Option Nat :=
  match resetOption r with
  | some _ => none
  | none =>
    match commandOf r.code with
    | some c => some c.maxReply
    | none => some 5

/-- The bank a bank selector names (R172). -/
def bankOf (b : Byte) : Option BankId :=
  if b = 0x00 then some .a else if b = 0x01 then some .b else none

/-! ### Status, reason and notice codes (11.5) -/

/-- The status codes. -/
inductive Status where
  | ok | switched | stopped | cancelled | badArgument | badLength | unknownCommand
  | bankActive | bankPending | busy | inUse | notDefined | invalidFormat | notice
  deriving DecidableEq, Repr

/-- The codes of the statuses (11.5). -/
def Status.code : Status → Byte
  | .ok => 0x00
  | .switched => 0x01
  | .stopped => 0x02
  | .cancelled => 0x03
  | .badArgument => 0x10
  | .badLength => 0x11
  | .unknownCommand => 0x12
  | .bankActive => 0x13
  | .bankPending => 0x14
  | .busy => 0x15
  | .inUse => 0x16
  | .notDefined => 0x17
  | .invalidFormat => 0x18
  | .notice => 0x80

/-- The codes of the validation reasons (11.5). -/
def Reason.code : Reason → Byte
  | .noGeometry => 0x01
  | .rate => 0x02
  | .noReply => 0x03
  | .narrowReply => 0x04
  | .slotEmpty => 0x05
  | .rotationLength => 0x06
  | .rotationEmpty => 0x07
  | .constTooWide => 0x08
  | .fieldTooWide => 0x09
  | .packTooWide => 0x0A
  | .pickUnset => 0x0B
  | .channelUndefined => 0x0C
  | .kindMismatch => 0x0D
  | .heldBeforeCapture => 0x0E

/-- The notice codes (11.5). -/
def noticeReady : Byte := 0x81
def noticeStale : Byte := 0x82
def noticeFresh : Byte := 0x83

/-- The causes that READY carries (11.5). -/
inductive ResetCause where
  | pin | restart | full
  deriving DecidableEq, Repr

/-- Their codes (11.5). -/
def ResetCause.code : ResetCause → Byte
  | .pin => 0x01
  | .restart => 0x02
  | .full => 0x03

/-- Part code and revision (R133, R154). -/
def partCode : Nat := 0x7208
def revision : Byte := 0x12

/-! ### Slot descriptors and rotation entries (R173) -/

/-- The descriptor that six bytes spell, its ranges not yet checked; none for a kind code of 0x0B or above. -/
def decodeSlot (bs : List Byte) : Option Slot :=
  match (byteAt bs 0).toNat with
  | 0x00 => some .empty
  | 0x01 => some (.const (BitVec.ofNat 16 (fieldAt bs 1 2)))
  | 0x02 => some .fill
  | 0x03 => some .frameIndex
  | 0x04 => some .frameCount
  | 0x05 => some (.time (byteAt bs 1).toNat (byteAt bs 2).toNat)
  | 0x06 => some .health
  | 0x07 => some .reply
  | 0x08 => some (.channel (fieldAt bs 1 2) (if (byteAt bs 3).getLsbD 0 then .held else .capture)
      ((byteAt bs 3).getLsbD 1) (byteAt bs 4).toNat (byteAt bs 5).toNat)
  | 0x09 => some (.packed (fieldAt bs 1 2) (byteAt bs 3).toNat)
  | 0x0A => some (.rotate (byteAt bs 1).toNat)
  | _ => none

/-- The six bytes of a descriptor, every position its kind does not use 0 (R4, R173). -/
def encodeSlot : Slot → List Byte
  | .empty => [0x00, 0, 0, 0, 0, 0]
  | .const v => [0x01] ++ bytesOf 2 v.toNat ++ [0, 0, 0]
  | .fill => [0x02, 0, 0, 0, 0, 0]
  | .frameIndex => [0x03, 0, 0, 0, 0, 0]
  | .frameCount => [0x04, 0, 0, 0, 0, 0]
  | .time s w => [0x05, BitVec.ofNat 8 s, BitVec.ofNat 8 w, 0, 0, 0]
  | .health => [0x06, 0, 0, 0, 0, 0]
  | .reply => [0x07, 0, 0, 0, 0, 0]
  | .channel c m sg s w =>
    [0x08] ++ bytesOf 2 c ++
      [BitVec.ofNat 8 ((match m with | .held => 1 | .capture => 0) + if sg then 2 else 0),
        BitVec.ofNat 8 s, BitVec.ofNat 8 w]
  | .packed a n => [0x09] ++ bytesOf 2 a ++ [BitVec.ofNat 8 n, 0, 0]
  | .rotate l => [0x0A, BitVec.ofNat 8 l, 0, 0, 0, 0]

/-- A channel number that can be defined or referenced (R69). -/
def channelOk (c : Nat) : Bool := 1 ≤ c && c ≤ 1023

/-- The write-time check of a descriptor's ranges and sums (R5, R6). -/
def Slot.accepted : Slot → Bool
  | .empty | .const _ | .fill | .frameIndex | .frameCount | .health | .reply => true
  | .time s w => s ≤ 47 && 1 ≤ w && w ≤ 16 && s + w ≤ 48
  | .channel c _ _ s w => channelOk c && s ≤ 23 && 1 ≤ w && w ≤ 16 && s + w ≤ 24
  | .packed a n => a ≤ 511 && 1 ≤ n && n ≤ 16 && a + n ≤ 512
  | .rotate l => l ≤ 31

/-- The seven kinds that a rotation entry may have (R8). -/
def Slot.listable : Slot → Bool
  | .channel _ _ _ _ _ | .packed _ _ | .const _ | .fill | .time _ _ | .frameCount | .empty => true
  | .rotate _ | .reply | .health | .frameIndex => false

/-- The descriptors of an argument list from byte `off`, if every one passes the write-time check (R6, R7). -/
def slotArgs (off : Nat) (args : List Byte) : Option (List Slot) :=
  (allPresent ((groupsOf 6 ((args.length - off) / 6) (args.drop off)).map decodeSlot)).filter
    fun ds => ds.all Slot.accepted

/-! ### Picks (R173) -/

/-- The pick that three bytes spell: type in bits 7 to 6, mode in bit 5, bit number in bits 4 to 0, then the channel. -/
def decodePick (bs : List Byte) : Pick :=
  match (byteAt bs 0).toNat / 64 with
  | 0 => .unset
  | 1 => .channelBit (fieldAt bs 1 2) ((byteAt bs 0).toNat % 32) (if (byteAt bs 0).getLsbD 5 then .held else .capture)
  | 2 => .zero
  | _ => .one

/-- The three bytes of a pick, every ignored position 0 (R173). -/
def encodePick : Pick → List Byte
  | .unset => [0x00, 0, 0]
  | .channelBit c b m =>
    BitVec.ofNat 8 (64 + (match m with | .held => 32 | .capture => 0) + b) :: bytesOf 2 c
  | .zero => [0x80, 0, 0]
  | .one => [0xC0, 0, 0]

/-- The write-time check of a pick (R11 step 4). -/
def Pick.accepted : Pick → Bool
  | .unset | .zero | .one => true
  | .channelBit c b _ => channelOk c && b ≤ 23

/-- The picks of an argument list from byte 3, if every one passes its check (R11). -/
def pickArgs (args : List Byte) : Option (List Pick) :=
  let ps := (groupsOf 3 ((args.length - 3) / 3) (args.drop 3)).map decodePick
  if ps.all Pick.accepted then some ps else none

/-! ### Channel definitions (R84, R172) -/

/-- A definition that passed checks 2 to 4 of R84: the kind with its limit, policy and, for LATEST, notify. -/
structure Definition where
  /-- the parts of a fresh record of the kind: NEVER with age 255, or an empty queue (R85) -/
  keeping : Keeping
  fill : Sample
  seqCheck : Bool
  deriving DecidableEq, Repr

/-- Checks 2 to 4 of R84 on the arguments of DEFINE_CHANNEL; none is BAD_ARGUMENT. -/
def definitionOf (args : List Byte) : Option Definition :=
  let kind := byteAt args 2
  let limit := (byteAt args 3).toNat
  let policy := byteAt args 4
  let options := byteAt args 8
  let fill : Sample := BitVec.ofNat 24 (fieldAt args 5 3)
  if kind = 0x01 then
    if limit ≤ 254 then
      if policy = 0x00 then some ⟨.latest ⟨.never, 255, limit, .hold, options.getLsbD 1⟩, fill, options.getLsbD 0⟩
      else if policy = 0x01 then some ⟨.latest ⟨.never, 255, limit, .fill, options.getLsbD 1⟩, fill, options.getLsbD 0⟩
      else none
    else none
  else if kind = 0x02 then
    if 1 ≤ limit then
      if policy = 0x00 then some ⟨.queued ⟨limit, .dropNew, []⟩, fill, options.getLsbD 0⟩
      else if policy = 0x01 then some ⟨.queued ⟨limit, .dropOld, []⟩, fill, options.getLsbD 0⟩
      else none
    else none
  else none

end Sys2Proof.Machine
end

