-- ==== Sys2Proof/Machine/Ops.lean ====
section
/-! DEFINITION. The shared operations of the blocks: tables, channel records, the reply queue with its notices and
reservations, the take of a command record, the sample store (append, capture, flush, trim), and the time base's
count of a REFCLK edge. -/

namespace Sys2Proof.Machine

/-! ### Tables in canonical form (log 13) -/

/-- The content at number `i`; an unlisted number holds `d`. -/
def Table.get {α : Type} (d : α) : Table α → Nat → α
  | [], _ => d
  | (k, v) :: t, i => if k = i then v else Table.get d t i

/-- An entry in front of a table, unless it is what an unlisted number holds. -/
def Table.cons {α : Type} [DecidableEq α] (d : α) (i : Nat) (v : α) (t : Table α) : Table α :=
  if v = d then t else (i, v) :: t

/-- The table with `v` at number `i`; a content equal to `d` is not listed. -/
def Table.put {α : Type} [DecidableEq α] (d : α) : Table α → Nat → α → Table α
  | [], i, v => Table.cons d i v []
  | (k, w) :: t, i, v =>
    if i < k then Table.cons d i v ((k, w) :: t)
    else if i = k then Table.cons d i v t
    else (k, w) :: Table.put d t i v

/-- The table with the contents of a list at `i` and the numbers that follow. -/
def Table.putAll {α : Type} [DecidableEq α] (d : α) : Table α → Nat → List α → Table α
  | t, _, [] => t
  | t, i, v :: vs => Table.putAll d (Table.put d t i v) (i + 1) vs

/-- The contents at `n` numbers from `i`. -/
def Table.run {α : Type} (d : α) (t : Table α) (i : Nat) : Nat → List α
  | 0 => []
  | n + 1 => Table.get d t i :: Table.run d t (i + 1) n

/-- Every listed content changed, by its number and what it was. -/
def Table.update {α : Type} (f : Nat → α → α) (t : Table α) : Table α := t.map fun e => (e.1, f e.1 e.2)

/-- Every number is at least `lo`, the numbers strictly rise, and nothing listed equals `d`. -/
def Table.wfFrom {α : Type} [DecidableEq α] (d : α) : Nat → Table α → Bool
  | _, [] => true
  | lo, (k, v) :: t => lo ≤ k && v ≠ d && Table.wfFrom d (k + 1) t

/-- The canonical form (log 13). -/
def Table.wf {α : Type} [DecidableEq α] (d : α) (t : Table α) : Bool := Table.wfFrom d 0 t

/-! ### Sets of channel numbers (R55) -/

/-- A set as a rising list without repeats: `c` added. -/
def insertChannel (c : Nat) : List Nat → List Nat
  | [] => [c]
  | k :: ks => if c < k then c :: k :: ks else if c = k then k :: ks else k :: insertChannel c ks

/-! ### Reading and writing parts of the state -/

/-- The record of channel `c`; a record that is not listed is UNDEFINED. -/
def State.channel (s : State) (c : Nat) : Channel := Table.get .blank s.channels c

/-- The record of channel `c` replaced. -/
def State.setChannel (s : State) (c : Nat) (ch : Channel) : State :=
  { s with channels := Table.put .blank s.channels c ch }

/-- A bank (R1). -/
def State.bank (s : State) : BankId → Bank
  | .a => s.bankA
  | .b => s.bankB

/-- A bank replaced; editing one does not alter the other (R1). -/
def State.setBank (s : State) (x : BankId) (b : Bank) : State :=
  match x with
  | .a => { s with bankA := b }
  | .b => { s with bankB := b }

/-- A bank's state changed, its contents kept (R12). -/
def State.setBankState (s : State) (x : BankId) (st : BankState) : State :=
  s.setBank x { s.bank x with state := st }

/-- The IRDY output: high while the command queue has a free place and RESETN is released (R148). -/
def State.irdy (s : State) : Level :=
  if s.pins.resetn = .high ∧ s.commands.length < 8 then .high else .low

/-- Geometry of the boot format (R52). -/
def bootGeometry : Geometry := ⟨16, 16, 1, 0x0000, 1, 64⟩

/-- The geometry of a format. A bank in force has one (R17); without one it is a free value (log 12). -/
def State.geometryOf (s : State) : Format → Geometry
  | .boot => bootGeometry
  | .bank x => (s.bank x).geometry.getD (Config.absentGeometry x)

/-! ### Reply queue (R124 to R131) -/

/-- The bytes of all queued records. -/
def recordBytes (rs : List (List Byte)) : Nat := (rs.map List.length).sum

/-- The bytes of all reservations. -/
def reservedBytes (rs : List Reservation) : Nat := (rs.map Reservation.size).sum

/-- Free record places: 16 less records and reservations (R124). -/
def ReplyQueue.freePlaces (q : ReplyQueue) : Nat := 16 - (q.records.length + q.reservations.length)

/-- Free bytes: 512 less the lengths of all records and the sizes of all reservations (R124). -/
def ReplyQueue.freeBytes (q : ReplyQueue) : Nat := 512 - (recordBytes q.records + reservedBytes q.reservations)

/-- CHECK: what makes the sum of all bytes 0 mod 256 (R128, R174). -/
def checkByte (bs : List Byte) : Byte := 0 - bs.foldl (· + ·) 0

/-- A reply record: LEN, TAG, CODE, STATUS, payload, CHECK (R128, R174). -/
def replyRecord (tag code status : Byte) (payload : List Byte) : List Byte :=
  let body := BitVec.ofNat 8 (5 + payload.length) :: tag :: code :: status :: payload
  body ++ [checkByte body]

/-- A record joins the queue at the newest end (R127). -/
def ReplyQueue.append (q : ReplyQueue) (r : List Byte) : ReplyQueue := { q with records := q.records ++ [r] }

/-- A reservation is added (R125). -/
def ReplyQueue.reserve (q : ReplyQueue) (r : Reservation) : ReplyQueue :=
  { q with reservations := q.reservations ++ [r] }

/-- The reservation of the command with this tag and code is removed, and the rest of its space released (R126). -/
def ReplyQueue.release (q : ReplyQueue) (tag code : Byte) : ReplyQueue :=
  { q with reservations := q.reservations.eraseP fun r => r.tag == tag && r.code == code }

/-- A reservation becomes a record with the status byte and payload given (R126). -/
def State.convert (s : State) (tag code status : Byte) (payload : List Byte) : State :=
  { s with replies := (s.replies.release tag code).append (replyRecord tag code status payload) }

/-- The immediate reply to a command at its take (R126). -/
def State.reply (s : State) (r : CmdRecord) (st : Status) (payload : List Byte) : State :=
  s.convert r.tag r.code st.code payload

/-- A notice with its code and payload: appended if a record place and its bytes are free after reservations,
otherwise dropped, counted and flagged (R131). -/
def State.notice (s : State) (code : Byte) (payload : List Byte) : State :=
  if 1 ≤ s.replies.freePlaces ∧ 5 + payload.length ≤ s.replies.freeBytes then
    { s with replies := s.replies.append (replyRecord 0 code Status.notice.code payload) }
  else s.report .noticesLost 1 .noticeLost

/-- The payload of READY (R133). -/
def State.readyPayload (s : State) (cause : ResetCause) : List Byte :=
  [cause.code] ++ bytesOf 2 partCode ++ [revision, s.pins.nodeAddress.setWidth 8,
    (match s.pins.linkMode with | .master => 0x01 | .follower => 0x00)]

/-- READY is raised at the end of a reset (R133). -/
def State.ready (s : State) (cause : ResetCause) : State := s.notice noticeReady (s.readyPayload cause)

/-- The idle unit, or the next byte of the head record with VALID and, at position 0, START (R129). -/
def ReplyQueue.unit (q : ReplyQueue) : BitVec 16 :=
  match q.records with
  | [] => 0
  | r :: _ => (if q.position = 0 then 0x0300 else 0x0100) ||| (byteAt r q.position).setWidth 16

/-- The queue after a REPLY fetch: the emission position advances, and the head is removed once its last byte has
been fetched (R129). -/
def ReplyQueue.advance (q : ReplyQueue) : ReplyQueue :=
  match q.records with
  | [] => q
  | r :: rest =>
    if q.position + 1 < r.length then { q with position := q.position + 1 }
    else { q with records := rest, position := 0 }

/-! ### The take of a command record (R150, R151) -/

/-- The oldest record, when the conditions of R150 hold: the processor is FREE, and there is a free record place and
its maximum reply size of free bytes; a well-formed RESET_PART needs only the first. No record is taken while RESETN
is asserted (R160). -/
def State.takeable (s : State) : Option CmdRecord :=
  if s.pins.resetn = .low ∨ s.validation.isSome then none
  else
    match s.commands with
    | [] => none
    | r :: _ =>
      match replyNeed r with
      | none => some r
      | some n => if 1 ≤ s.replies.freePlaces ∧ n ≤ s.replies.freeBytes then some r else none

/-- Steps 1 and 2 of R151: the record leaves the command queue, and its reply space is reserved. -/
def State.beginTake (s : State) (r : CmdRecord) : State :=
  let s := { s with commands := s.commands.tail }
  match replyNeed r with
  | none => s
  | some n => { s with replies := s.replies.reserve ⟨r.tag, r.code, n⟩ }

/-- The take of the oldest record, when it can be taken and is of the sort wanted; otherwise it waits and nothing
changes (R150; log 1). -/
def State.take (s : State) (want : CmdRecord → Bool) (act : CmdRecord → State → State) :
    Host.Outcome State Fault Refusal :=
  match s.takeable with
  | some r => if want r then .next (act r (s.beginTake r)) else .next s
  | none => .next s

/-- The take of a command of the catalogue: BAD_LENGTH for a wrong argument length (R151 step 4), otherwise the owner
block acts (step 5). -/
def State.takeCommand (s : State) (c : Command) (owner : CmdRecord → State → State) :
    Host.Outcome State Fault Refusal :=
  s.take (fun r => commandOf r.code == some c) fun r s =>
    if c.accepts r.args.length then owner r s else s.reply r .badLength []

/-! ### Queues and the pool (R98 to R105) -/

/-- The samples a channel holds in its queue (R94). -/
def Channel.queue (ch : Channel) : List Sample :=
  match ch.keeping with
  | .queued p => p.queue
  | .undefined | .latest _ => []

/-- One overflow counted on the channel (R99). -/
def Channel.countOverflow (ch : Channel) (n : Nat) : Channel :=
  { ch with counters := { ch.counters with overflow := satAdd ch.counters.overflow n } }

/-- An accepted sample on the QUEUED channel `c`, whose record is `ch` with QUEUED part `p` (R98, R99). -/
def State.appendSample (s : State) (c : Nat) (ch : Channel) (p : QueuedPart) (v : Sample) : State :=
  if p.queue.length < p.limit ∧ 1 ≤ s.freeCells then
    { s.setChannel c { ch with keeping := .queued { p with queue := p.queue ++ [v] } } with
      freeCells := s.freeCells - 1 }
  else
    let queue :=
      match p.policy, p.queue with
      | .dropOld, _ :: rest => rest ++ [v]
      | .dropOld, [] => []
      | .dropNew, q => q
    (s.setChannel c ({ ch with keeping := .queued { p with queue := queue } }.countOverflow 1)).report
      .overflowDrops 1 .sampleDrop

/-- A capture of channel `c` at a fetch: the value produced, and the state with it in the hold cell, counted and
flagged as R39 and R40 state (R103). -/
def State.capture (s : State) (c : Nat) : State × Sample :=
  let ch := s.channel c
  match ch.keeping with
  | .undefined => (s, Config.undefinedCapture c)
  | .latest p =>
    match p.freshness with
    | .fresh => (s.setChannel c { ch with holdCell := ch.latestCell }, ch.latestCell)
    | .stale | .never =>
      let v := match p.policy with
        | .hold => ch.latestCell
        | .fill => ch.fill
      ((s.setChannel c { ch with
          holdCell := v
          counters := { ch.counters with staleCapture := satAdd ch.counters.staleCapture 1 } }).setFlag .stale, v)
  | .queued p =>
    match p.queue with
    | v :: rest =>
      ({ s.setChannel c { ch with holdCell := v, keeping := .queued { p with queue := rest } } with
          freeCells := s.freeCells + 1 }, v)
    | [] =>
      ((s.setChannel c { ch with
          holdCell := ch.fill
          counters := { ch.counters with underrun := satAdd ch.counters.underrun 1 } }).report
        .underruns 1 .underrun, ch.fill)

/-! ### Arrivals (R72 to R78, R96, R101) -/

/-- The judgement of the sequence check (R74). -/
inductive Judgement where
  | accepted
  | gap (missing : Nat)
  | duplicate
  | late
  deriving DecidableEq, Repr

/-- A sequence number judged against the last (R74); no judgement with the check off. -/
def judge (check : Bool) (last : Option Byte) (seq : Byte) : Judgement :=
  match check, last with
  | false, _ => .accepted
  | true, none => .accepted
  | true, some l =>
    let diff := (seq - l).toNat
    if diff = 0 then .duplicate
    else if diff = 1 then .accepted
    else if diff ≤ 127 then .gap (diff - 1)
    else .late

/-- An orphan sample (R101). -/
def State.orphan (s : State) : State := s.report .orphanSamples 1 .orphan

/-- Steps 3 to 5 of R72 for an accepted sample on channel `c` with record `ch`. -/
def State.acceptSample (s : State) (c : Nat) (ch : Channel) (seq : Byte) (v : Sample) : State :=
  let ch := { ch with
    lastSeq := some seq
    counters := { ch.counters with received := satAdd ch.counters.received 1 } }
  match ch.keeping with
  | .undefined => s
  | .latest p =>
    let s' := s.setChannel c { ch with
      latestCell := v
      keeping := .latest { p with freshness := .fresh, age := 0 } }
    if p.freshness = .stale ∧ p.notify then s'.notice noticeFresh (bytesOf 2 c) else s'
  | .queued p => s.appendSample c ch p v

/-- One arrival: the sample `v` with sequence number `seq` for channel `c` (R72, R76). -/
def State.arrive (s : State) (c : Nat) (seq : Byte) (v : Sample) : State :=
  let ch := s.channel c
  if c = 0 ∨ ch.keeping = .undefined then s.orphan
  else
    match judge ch.seqCheck ch.lastSeq seq with
    | .accepted => s.acceptSample c ch seq v
    | .gap g =>
      (s.report .seqFaults 1 .seqFault).acceptSample c
        { ch with counters := { ch.counters with gapLost := satAdd ch.counters.gapLost g } } seq v
    | .duplicate =>
      (s.setChannel c { ch with
        counters := { ch.counters with duplicate := satAdd ch.counters.duplicate 1 } }).report .seqFaults 1 .seqFault
    | .late =>
      (s.setChannel c { ch with
        counters := { ch.counters with late := satAdd ch.counters.late 1 } }).report .seqFaults 1 .seqFault

/-- The arrivals of a message, in order: value i carries the sequence number (seq + i) mod 256 (R73). -/
def State.arriveAll (s : State) (c : Nat) (seq : Byte) : List Sample → State
  | [] => s
  | v :: vs => (s.arrive c seq v).arriveAll c (seq + 1) vs

/-! ### Freshness tick (R79) -/

/-- The tick on one record: age, and STALE past the limit. -/
def Channel.tick (ch : Channel) : Channel :=
  match ch.keeping with
  | .latest p =>
    let age := min 255 (p.age + 1)
    let freshness := if p.freshness = .fresh ∧ p.limit ≠ 0 ∧ p.limit < age then .stale else p.freshness
    { ch with keeping := .latest { p with age := age, freshness := freshness } }
  | .undefined | .queued _ => ch

/-- The tick makes this record STALE and its notify option is on (R79 step 2). -/
def Channel.tickNotice (ch : Channel) : Bool :=
  match ch.keeping with
  | .latest p => p.freshness = .fresh && p.limit ≠ 0 && p.limit < min 255 (p.age + 1) && p.notify
  | .undefined | .queued _ => false

/-- The freshness tick on every LATEST channel, its notices in ascending channel order (R79, R81). A record's tick
does not depend on the reply queue, so the notices may follow the ticks. -/
def State.tick (s : State) : State :=
  let raised := (s.channels.filter fun e => e.2.tickNotice).map Prod.fst
  let s' := { s with channels := Table.update (fun _ ch => ch.tick) s.channels }
  raised.foldl (fun s c => s.notice noticeStale (bytesOf 2 c)) s'

/-! ### Pin flags (R64) -/

/-- The pin flags of every listed channel as functions of its number and of its present flags. -/
def State.setPins (s : State) (active pending : Nat → Bool → Bool) : State :=
  { s with channels := Table.update (fun c ch =>
      { ch with activeRef := active c ch.activeRef, pendingRef := pending c ch.pendingRef }) s.channels }

/-! ### The time base's count (R118, R121; log 4) -/

/-- The time base takes the count of the REFCLK edge it still owes, if any: the prescaler count rises by 1, unless
that completes P; the advance is then due as a step of its own. -/
def TimeBase.takeEdge (t : TimeBase) : TimeBase :=
  match t.edge with
  | .taken => t
  | .afterStrobe | .advanceDue =>
    if t.count + 1 < t.prescaler then { t with count := t.count + 1, edge := .taken }
    else { t with edge := .advanceDue }

/-- TIME_COUNTER_ADVANCE: the prescaler count reaches P, returns to 0, and the counter advances with wrap (R118). -/
def TimeBase.advance (t : TimeBase) : TimeBase :=
  match t.edge with
  | .advanceDue => { t with count := 0, counter := t.counter + 1, edge := .taken }
  | .taken | .afterStrobe => t

end Sys2Proof.Machine
end

