-- ==== Sys2Proof/Machine/BankCommands.lean ====
section
/-! DEFINITION. The bank commands at their takes: SET_FRAME (R3), WRITE_SLOTS (R7), WRITE_ROTATION (R9), WRITE_PICKS
(R11), CLEAR_BANK (R14), READ_BANK (R15). -/

namespace Sys2Proof.Machine

/-- An edit of the bank that the selector names: BAD_ARGUMENT for a selector that names none (R1), the refusals of R13
by the bank's state, then the command's own checks (none is BAD_ARGUMENT) and its change. -/
def State.edit (s : State) (r : CmdRecord) (change : Bank → Option Bank) : State :=
  match bankOf (byteAt r.args 0) with
  | none => s.reply r .badArgument []
  | some x =>
    match (s.bank x).state with
    | .active => s.reply r .bankActive []
    | .pending => s.reply r .bankPending []
    | .validating => s.convert r.tag r.code Config.unmetStatus []
    | .editable =>
      match change (s.bank x) with
      | none => s.reply r .badArgument []
      | some b => (s.setBank x b).reply r .ok []

/-- The geometry that SET_FRAME's arguments give, if W, F and C are in range (R2, R3). -/
def geometryArgs (args : List Byte) : Option Geometry :=
  let w := (byteAt args 1).toNat
  let f := fieldAt args 2 2
  let c := fieldAt args 4 2
  if 8 ≤ w ∧ w ≤ 16 ∧ 4 ≤ f ∧ f ≤ 512 ∧ 1 ≤ c ∧ c ≤ 256 then
    some ⟨w, f, c, BitVec.ofNat 16 (fieldAt args 6 2), BitVec.ofNat 16 (fieldAt args 8 2),
      BitVec.ofNat 24 (fieldAt args 10 3)⟩
  else none

/-- The bank after a SET_FRAME whose arguments pass (R3). -/
def Bank.setFrame (args : List Byte) (b : Bank) : Option Bank :=
  (geometryArgs args).map fun g => { b with geometry := some g }

/-- The take of a SET_FRAME of the right length. -/
def State.setFrame (r : CmdRecord) (s : State) : State := s.edit r (Bank.setFrame r.args)

/-- SET_FRAME (R3). -/
def execSetFrame (s : State) : Host.Outcome State Fault Refusal := s.takeCommand .setFrame State.setFrame

/-- The bank after a WRITE_SLOTS whose arguments pass (R7). -/
def Bank.writeSlots (args : List Byte) (b : Bank) : Option Bank :=
  let q := fieldAt args 1 2
  match slotArgs 3 args with
  | none => none
  | some ds =>
    if q ≤ 511 ∧ q + ds.length ≤ 512 then some { b with template := Table.putAll .empty b.template q ds } else none

/-- The take of a WRITE_SLOTS of the right length. -/
def State.writeSlots (r : CmdRecord) (s : State) : State := s.edit r (Bank.writeSlots r.args)

/-- WRITE_SLOTS (R7). -/
def execWriteSlots (s : State) : Host.Outcome State Fault Refusal := s.takeCommand .writeSlots State.writeSlots

/-- A list brought to length `n`: cut, or lengthened with EMPTY entries (R9). -/
def listResized (list : List Slot) (n : Nat) : List Slot := list.take n ++ List.replicate (n - list.length) .empty

/-- Entries written over a list from entry `e` (R9). -/
def listWritten (list : List Slot) (e : Nat) (ds : List Slot) : List Slot :=
  if ds = [] then list else list.take e ++ ds ++ list.drop (e + ds.length)

/-- The bank after a WRITE_ROTATION whose arguments pass (R9). -/
def Bank.writeRotation (args : List Byte) (b : Bank) : Option Bank :=
  let l := (byteAt args 1).toNat
  let len := (byteAt args 2).toNat
  let e := (byteAt args 3).toNat
  match slotArgs 4 args with
  | none => none
  | some ds =>
    if l ≤ 31 ∧ len ≤ 64 ∧ (ds = [] ∨ e + ds.length ≤ len) ∧ ds.all Slot.listable then
      let list := listWritten (listResized (Table.get [] b.rotation l) len) e ds
      some { b with rotation := Table.put [] b.rotation l list }
    else none

/-- The take of a WRITE_ROTATION of the right length. -/
def State.writeRotation (r : CmdRecord) (s : State) : State := s.edit r (Bank.writeRotation r.args)

/-- WRITE_ROTATION (R9). -/
def execWriteRotation (s : State) : Host.Outcome State Fault Refusal := s.takeCommand .writeRotation State.writeRotation

/-- The bank after a WRITE_PICKS whose arguments pass (R11). -/
def Bank.writePicks (args : List Byte) (b : Bank) : Option Bank :=
  let a := fieldAt args 1 2
  match pickArgs args with
  | none => none
  | some ps =>
    if a ≤ 511 ∧ a + ps.length ≤ 512 then some { b with picks := Table.putAll .unset b.picks a ps } else none

/-- The take of a WRITE_PICKS of the right length. -/
def State.writePicks (r : CmdRecord) (s : State) : State := s.edit r (Bank.writePicks r.args)

/-- WRITE_PICKS (R11). -/
def execWritePicks (s : State) : Host.Outcome State Fault Refusal := s.takeCommand .writePicks State.writePicks

/-- The take of a CLEAR_BANK of the right length. -/
def State.clearBank (r : CmdRecord) (s : State) : State := s.edit r fun _ => some .clear

/-- CLEAR_BANK (R14). -/
def execClearBank (s : State) : Host.Outcome State Fault Refusal := s.takeCommand .clearBank State.clearBank

/-- The code of a bank state (11.5). -/
def BankState.code : BankState → Byte
  | .editable => 0x00
  | .validating => 0x01
  | .pending => 0x02
  | .active => 0x03

/-- The GEOMETRY payload (R15); an absent geometry is reported as zeros (R174). -/
def Bank.geometryPayload (b : Bank) : List Byte :=
  [b.state.code] ++
    match b.geometry with
    | none => 0x00 :: List.replicate 12 0
    | some g =>
      [0x01, BitVec.ofNat 8 g.width] ++ bytesOf 2 g.length ++ bytesOf 2 g.depth ++ bytesOf 2 g.fill.toNat
        ++ bytesOf 2 g.ratioN.toNat ++ bytesOf 3 g.ratioD.toNat

/-- The payload of READ_BANK for a selector and its two index bytes; none is BAD_ARGUMENT (R15, R172). -/
def Bank.readPayload (b : Bank) (args : List Byte) : Option (List Byte) :=
  let index := fieldAt args 2 2
  match (byteAt args 1).toNat with
  | 0x00 => some b.geometryPayload
  | 0x01 =>
    if index ≤ 511 then
      some (bytesOf 2 index ++ (Table.run .empty b.template index (min 5 (512 - index))).flatMap encodeSlot)
    else none
  | 0x02 =>
    let l := byteAt args 2
    let e := byteAt args 3
    if l.toNat ≤ 31 ∧ e.toNat ≤ 63 then
      let list := Table.get [] b.rotation l.toNat
      some ([l, BitVec.ofNat 8 list.length, e] ++ ((list.drop e.toNat).take 4).flatMap encodeSlot)
    else none
  | 0x03 =>
    if index ≤ 511 then
      some (bytesOf 2 index ++ (Table.run .unset b.picks index (min 10 (512 - index))).flatMap encodePick)
    else none
  | _ => none

/-- The take of a READ_BANK of the right length (R15); the bank's state plays no part. -/
def State.readBank (r : CmdRecord) (s : State) : State :=
  match bankOf (byteAt r.args 0) with
  | none => s.reply r .badArgument []
  | some x =>
    match (s.bank x).readPayload r.args with
    | none => s.reply r .badArgument []
    | some payload => s.reply r .ok payload

/-- READ_BANK (R15). -/
def execReadBank (s : State) : Host.Outcome State Fault Refusal := s.takeCommand .readBank State.readBank

end Sys2Proof.Machine
end

