-- ==== Sys2Proof/Machine/ChannelCommands.lean ====
section
/-! DEFINITION. The channel commands at their takes: DEFINE_CHANNEL (R84 to R87), UNDEFINE_CHANNEL (R88),
READ_CHANNEL (R89). -/

namespace Sys2Proof.Machine

/-- A new record of the definition (R85). -/
def Definition.record (d : Definition) : Channel :=
  ⟨d.keeping, d.fill, d.seqCheck, none, d.fill, d.fill, false, false, .zero⟩

/-- Either pin flag is set (R83). -/
def Channel.pinned (ch : Channel) : Bool := ch.activeRef || ch.pendingRef

/-- A same-kind redefinition of a LATEST channel (R86): options replaced, the rest kept; in NEVER the latest cell takes
the new fill value. `old` is the channel's LATEST part, `new` that of the definition. -/
def Channel.redefineLatest (ch : Channel) (d : Definition) (old new : LatestPart) : Channel :=
  { ch with
    keeping := .latest { new with freshness := old.freshness, age := old.age }
    fill := d.fill
    seqCheck := d.seqCheck
    latestCell := if old.freshness = .never then d.fill else ch.latestCell }

/-- How many samples a new depth limit trims from a queue (R104). -/
def trimCount (queue : List Sample) (limit : Nat) : Nat := queue.length - limit

/-- A same-kind redefinition of a QUEUED channel, which trims the queue from the oldest end (R86, R104). -/
def State.redefineQueued (s : State) (c : Nat) (ch : Channel) (d : Definition) (old new : QueuedPart) : State :=
  let lost := trimCount old.queue new.limit
  let ch' := { ch with
    keeping := .queued { new with queue := old.queue.drop lost }
    fill := d.fill
    seqCheck := d.seqCheck }
  let s' := { s.setChannel c (ch'.countOverflow lost) with freeCells := s.freeCells + lost }
  if lost = 0 then s' else s'.report .overflowDrops lost .sampleDrop

/-- The record of channel `c` removed from its kind: every queued sample returns its cell, uncounted (R87, R88,
R105). -/
def State.replaceChannel (s : State) (c : Nat) (ch : Channel) : State :=
  { s.setChannel c ch with freeCells := s.freeCells + (s.channel c).queue.length }

/-- The take of a DEFINE_CHANNEL of the right length (R84). -/
def State.defineChannel (r : CmdRecord) (s : State) : State :=
  let c := fieldAt r.args 0 2
  if ¬ channelOk c then s.reply r .badArgument []
  else
    match definitionOf r.args with
    | none => s.reply r .badArgument []
    | some d =>
      let ch := s.channel c
      match ch.keeping, d.keeping with
      | .undefined, _ => (s.setChannel c d.record).reply r .ok []
      | .latest old, .latest new => (s.setChannel c (ch.redefineLatest d old new)).reply r .ok []
      | .queued old, .queued new => (s.redefineQueued c ch d old new).reply r .ok []
      | .latest _, _ | .queued _, _ =>
        if ch.pinned then s.reply r .inUse [] else (s.replaceChannel c d.record).reply r .ok []

/-- DEFINE_CHANNEL (R84). -/
def execDefineChannel (s : State) : Host.Outcome State Fault Refusal :=
  s.takeCommand .defineChannel State.defineChannel

/-- The take of an UNDEFINE_CHANNEL of the right length (R88). -/
def State.undefineChannel (r : CmdRecord) (s : State) : State :=
  let c := fieldAt r.args 0 2
  if ¬ channelOk c then s.reply r .badArgument []
  else if (s.channel c).keeping = .undefined then s.reply r .notDefined []
  else if (s.channel c).pinned then s.reply r .inUse []
  else (s.replaceChannel c .blank).reply r .ok []

/-- UNDEFINE_CHANNEL (R88). -/
def execUndefineChannel (s : State) : Host.Outcome State Fault Refusal :=
  s.takeCommand .undefineChannel State.undefineChannel

/-- Bits 1 to 0 of the state byte, the policy, notify, the limit, and the age or queue length of a record (R89, 11.5). -/
def Channel.report (ch : Channel) : Nat × Bool × Bool × Nat × Nat :=
  match ch.keeping with
  | .undefined => (0, false, false, 0, 0)
  | .latest p =>
    ((match p.freshness with | .never => 0 | .fresh => 1 | .stale => 2), p.policy == .fill, p.notify, p.limit, p.age)
  | .queued p => (3, p.policy == .dropOld, false, p.limit, p.queue.length)

/-- The 27-byte payload of READ_CHANNEL (R89, 11.5). -/
def Channel.payload (ch : Channel) : List Byte :=
  let (kind, policy, notify, limit, age) := ch.report
  let state := kind + 4 * policy.toNat + 8 * ch.seqCheck.toNat + 16 * notify.toNat + 32 * ch.lastSeq.isSome.toNat
    + 64 * ch.activeRef.toNat + 128 * ch.pendingRef.toNat
  [BitVec.ofNat 8 state, BitVec.ofNat 8 limit, BitVec.ofNat 8 age, ch.lastSeq.getD 0]
    ++ bytesOf 3 ch.fill.toNat ++ bytesOf 3 ch.latestCell.toNat ++ bytesOf 3 ch.holdCell.toNat
    ++ ch.counters.inOrder.flatMap fun k => bytesOf 2 k.toNat

/-- The take of a READ_CHANNEL of the right length (R89). -/
def State.readChannel (r : CmdRecord) (s : State) : State :=
  let c := fieldAt r.args 0 2
  if ¬ channelOk c then s.reply r .badArgument []
  else if (s.channel c).keeping = .undefined then s.reply r .notDefined []
  else s.reply r .ok (s.channel c).payload

/-- READ_CHANNEL (R89). -/
def execReadChannel (s : State) : Host.Outcome State Fault Refusal :=
  s.takeCommand .readChannel State.readChannel

end Sys2Proof.Machine
end

