-- ==== Sys2Proof/Machine/Validation.lean ====
section
/-! DEFINITION. Validation of a bank: the whole-format tests (R17), the place examinations (R18 to R23), one of them
in each REFCLK period (R16), and validation completion (R24, R58, R59). -/

namespace Sys2Proof.Machine

/-! ### Whole-format tests (R17) -/

/-- The lowest place below F that holds REPLY (R17). -/
def Bank.firstReply (b : Bank) (g : Geometry) : Option Nat :=
  (b.template.find? fun e => e.1 < g.length && e.2 == .reply).map Prod.fst

/-- One whole-format test: its finding, if its condition holds. The tests after the first meet a present geometry. -/
def wholeFinding (mode : LinkMode) (b : Bank) (t : WholeTest) : Option Finding :=
  match t, b.geometry with
  | .geometry, none => some ⟨.noGeometry, 0, 0⟩
  | .geometry, some _ => none
  | .rate, some g =>
    if mode = .master ∧ (g.ratioN = 0 ∨ g.ratioD.toNat < 2 * g.ratioN.toNat) then some ⟨.rate, 0, 0⟩ else none
  | .reply, some g => if (b.firstReply g).isNone then some ⟨.noReply, 0, 0⟩ else none
  | .narrow, some g =>
    match b.firstReply g with
    | some p => if g.width < 10 then some ⟨.narrowReply, 0, p⟩ else none
    | none => none
  | .rate, none | .reply, none | .narrow, none => none

/-! ### Place examinations (R18 to R23) -/

/-- The captured set of the frame so far and the channels referenced so far. -/
structure Seen where
  captured : List Nat
  refs : List Nat
  deriving DecidableEq, Repr

/-- One reference to channel `c`: a capture adds it to the captured set; a HELD reference fails with
HELD_BEFORE_CAPTURE unless the frame has captured it already (R23). -/
def Seen.reference (seen : Seen) (c : Nat) : RefMode → Except Reason Seen
  | .capture => .ok ⟨insertChannel c seen.captured, insertChannel c seen.refs⟩
  | .held => if c ∈ seen.captured then .ok ⟨seen.captured, insertChannel c seen.refs⟩ else .error .heldBeforeCapture

/-- The references of a run of picks, lowest first (R23). -/
def Seen.picks (seen : Seen) : List Pick → Except Reason Seen
  | [] => .ok seen
  | .channelBit c _ m :: ps =>
    match seen.reference c m with
    | .ok seen' => seen'.picks ps
    | .error r => .error r
  | .unset :: ps | .zero :: ps | .one :: ps => seen.picks ps

/-- The channel is UNDEFINED (R22). -/
def State.isUndefined (s : State) (c : Nat) : Bool := (s.channel c).keeping == .undefined

/-- The channel is QUEUED (R21). -/
def State.isQueued (s : State) (c : Nat) : Bool :=
  match (s.channel c).keeping with
  | .queued _ => true
  | .undefined | .latest _ => false

/-- The pick names an UNDEFINED channel (R22). -/
def State.pickUndefined (s : State) : Pick → Bool
  | .channelBit c _ _ => s.isUndefined c
  | .unset | .zero | .one => false

/-- The pick captures a QUEUED channel (R21, KIND_MISMATCH). -/
def State.pickMismatch (s : State) : Pick → Bool
  | .channelBit c _ .capture => s.isQueued c
  | .channelBit _ _ .held | .unset | .zero | .one => false

/-- Checks 4 to 10 of R18 on a descriptor that is not ROTATE, in their order. -/
def State.examineSlot (s : State) (b : Bank) (g : Geometry) (seen : Seen) : Slot → Except Reason Seen
  | .const v => if 2 ^ g.width ≤ v.toNat then .error .constTooWide else .ok seen
  | .time _ w => if g.width < w then .error .fieldTooWide else .ok seen
  | .channel c m _ _ w =>
    if g.width < w then .error .fieldTooWide
    else if s.isUndefined c then .error .channelUndefined
    else seen.reference c m
  | .packed a n =>
    let run := Table.run .unset b.picks a n
    if g.width < n then .error .packTooWide
    else if run.any (· == .unset) then .error .pickUnset
    else if run.any s.pickUndefined then .error .channelUndefined
    else if run.any s.pickMismatch then .error .kindMismatch
    else seen.picks run
  | .empty | .fill | .frameIndex | .frameCount | .health | .reply | .rotate _ => .ok seen

/-- The examination of place `p` in frame `f` (R18, R19, R20). -/
def State.examinePlace (s : State) (b : Bank) (g : Geometry) (f p : Nat) (seen : Seen) : Except Reason Seen :=
  match Table.get .empty b.template p with
  | .empty => .error .slotEmpty
  | .rotate l =>
    let list := Table.get [] b.rotation l
    if list.length = 0 ∨ g.depth % list.length ≠ 0 then .error .rotationLength
    else
      match list.getD (f % list.length) .empty with
      | .empty => .error .rotationEmpty
      | d => s.examineSlot b g seen d
  | d => s.examineSlot b g seen d

/-! ### Progress, one period at a time (R16) -/

/-- What one REFCLK period adds to a validation: one whole-format test or the examination of one place (R16, R18). -/
def State.nextProgress (s : State) (b : Bank) : Progress → Progress
  | .test t =>
    match wholeFinding s.pins.linkMode b t with
    | some f => .found f
    | none =>
      match t with
      | .geometry => .test .rate
      | .rate => .test .reply
      | .reply => .test .narrow
      | .narrow => .examine 0 0 [] []
  | .examine f p captured refs =>
    let g := b.geometry.getD bootGeometry
    match s.examinePlace b g f p ⟨captured, refs⟩ with
    | .error r => .found ⟨r, f, p⟩
    | .ok seen =>
      if p + 1 < g.length then .examine f (p + 1) seen.captured seen.refs
      else if f + 1 < g.depth then .examine (f + 1) 0 [] seen.refs
      else .passed seen.refs
  | .found f => .found f
  | .passed refs => .passed refs

/-- The part of a REFCLK edge that belongs to validation. -/
def State.validatePeriod (s : State) : State :=
  match s.validation with
  | none => s
  | some v => { s with validation := some { v with progress := s.nextProgress (s.bank v.bank) v.progress } }

/-! ### Completion (R24, R58, R59) -/

/-- The payload of INVALID_FORMAT: reason, frame, place (11.5). -/
def Finding.payload (f : Finding) : List Byte :=
  f.reason.code :: BitVec.ofNat 8 f.frame :: bytesOf 2 f.place

/-- Completion with a finding (R58). -/
def State.completeFound (s : State) (v : Validation) (f : Finding) : State :=
  let s := s.setBankState v.bank .editable
  let s := s.convert v.tag Command.switch.code Status.invalidFormat.code f.payload
  let s := s.count .validationFailures 1
  { s with validation := none }

/-- Completion with success (R59). -/
def State.completePassed (s : State) (v : Validation) (refs : List Nat) : State :=
  let s := s.setBankState v.bank .pending
  let s := s.setPins (fun _ a => a) (fun c p => p || refs.contains c)
  { s with
    engine := { s.engine with pendingSwitch := some ⟨.bank v.bank, v.tag⟩, pendingRefs := refs }
    validation := none }

/-- Validation completion, if the validation in progress has come to its end (R24). -/
def State.completeValidation (s : State) : State :=
  match s.validation with
  | some v =>
    match v.progress with
    | .found f => s.completeFound v f
    | .passed refs => s.completePassed v refs
    | .test _ | .examine _ _ _ _ => s
  | none => s

/-- VALIDATION_COMPLETION (R24, R58, R59). Before the end of the period that ends the validation it does not occur,
and nothing changes (log 1). -/
def execValidationCompletion (s : State) : Host.Outcome State Fault Refusal := .next s.completeValidation

end Sys2Proof.Machine
end

