-- ==== Sys2Proof/Machine/Frame.lean ====
section
/-! DEFINITION. Building a frame: the content of each slot kind (R30 to R37), the frame start (R45 to R49), the
installation of formats at a cycle boundary (R60, R63), the word fetch (R28), the bit strobe (R110), the pacer (R111)
and the REFCLK edge (R118). -/

namespace Sys2Proof.Machine

/-! ### The format in force -/

/-- The template of the boot format (R52). -/
def bootSlot (p : Nat) : Slot :=
  if p = 0 then .const 0x5B1E
  else if p = 1 then .const 0xC6A7
  else if p = 2 then .frameCount
  else if p = 3 then .health
  else if p ≤ 13 then .reply
  else if p = 14 then .time 0 16
  else if p = 15 then .time 16 16
  else .empty

/-- The geometry of the format in force. -/
def State.geometry (s : State) : Geometry := s.geometryOf s.engine.inForce

/-- The descriptor at place `p` of the format in force, a ROTATE resolved for the current frame index (R28 step 2,
R36). -/
def State.slotAt (s : State) (p : Nat) : Slot :=
  match s.engine.inForce with
  | .boot => bootSlot p
  | .bank x =>
    match Table.get .empty (s.bank x).template p with
    | .rotate l =>
      let list := Table.get [] (s.bank x).rotation l
      list.getD (s.engine.frameIndex.getD 0 % list.length) .empty
    | d => d

/-- The picks of a run in the format in force. -/
def State.pickRun (s : State) (a n : Nat) : List Pick :=
  match s.engine.inForce with
  | .boot => Table.run .unset [] a n
  | .bank x => Table.run .unset (s.bank x).picks a n

/-! ### Word content (R29 to R37) -/

/-- Bits `shift` to `shift + width - 1` of a value, at bit 0. -/
def bitField (v shift width : Nat) : Nat := v / 2 ^ shift % 2 ^ width

/-- The field of a 24-bit value in a word of `w` bits: the bits above a signed field copy its top bit (R35). -/
def channelField (v : Sample) (signed : Bool) (shift width w : Nat) : Nat :=
  let field := bitField v.toNat shift width
  if signed && width < w && v.getLsbD (shift + width - 1) then field + (2 ^ w - 2 ^ width) else field

/-- The bits of a run of picks, resolved one after another from the lowest; `i` is the number of the next pick in
the run, `done` the values captured so far in this fetch (R37, R41). -/
def State.packRun (s : State) (i : Nat) (done : List (Nat × Sample)) : List Pick → State × Nat
  | [] => (s, 0)
  | p :: ps =>
    match p with
    | .zero => s.packRun (i + 1) done ps
    | .one =>
      let r := s.packRun (i + 1) done ps
      (r.1, 2 ^ i + r.2)
    | .unset =>
      let r := s.packRun (i + 1) done ps
      (r.1, (if Config.unsetPickBit i then 2 ^ i else 0) + r.2)
    | .channelBit c b .held =>
      let r := s.packRun (i + 1) done ps
      (r.1, (if (s.channel c).holdCell.getLsbD b then 2 ^ i else 0) + r.2)
    | .channelBit c b .capture =>
      match done.lookup c with
      | some v =>
        let r := s.packRun (i + 1) done ps
        (r.1, (if v.getLsbD b then 2 ^ i else 0) + r.2)
      | none =>
        let cap := s.capture c
        let r := cap.1.packRun (i + 1) ((c, cap.2) :: done) ps
        (r.1, (if cap.2.getLsbD b then 2 ^ i else 0) + r.2)

/-- The content of the word for a resolved descriptor at place `p`, and the state its fetch leaves (R30 to R37). -/
def State.content (s : State) (p : Nat) : Slot → State × Nat
  | .const v => (s, v.toNat)
  | .fill => (s, s.geometry.fill.toNat)
  | .frameIndex => (s, s.engine.frameIndex.getD 0)
  | .frameCount => (s, (s.engine.frameCount.getD 0).toNat)
  | .time shift width => (s, bitField s.timeBase.latch.toNat shift width)
  | .health => ({ s with health := s.health.clearCarried s.geometry.width }, s.healthWord.toNat)
  | .reply => ({ s with replies := s.replies.advance }, s.replies.unit.toNat)
  | .channel c .capture sg shift width =>
    let cap := s.capture c
    (cap.1, channelField cap.2 sg shift width s.geometry.width)
  | .channel c .held sg shift width =>
    (s, channelField (s.channel c).holdCell sg shift width s.geometry.width)
  | .packed a n => s.packRun 0 [] (s.pickRun a n)
  | .empty => (s, (Config.emptyPlaceWord p).toNat)
  | .rotate _ => (s, (Config.emptyPlaceWord p).toNat)

/-! ### Switching at a cycle boundary (R60, R63, R64) -/

/-- The format in force, if a bank, becomes EDITABLE (R12). -/
def State.retireInForce (s : State) : State :=
  match s.engine.inForce with
  | .boot => s
  | .bank y => s.setBankState y .editable

/-- The frame count as the 4-byte payload of SWITCHED, STOPPED and PING (11.5). -/
def State.countPayload (s : State) : List Byte := bytesOf 4 (s.engine.frameCount.getD 0).toNat

/-- A pending switch to bank `x` is carried out (R60). -/
def State.installBank (s : State) (x : BankId) (tag : Byte) : State :=
  let s := s.retireInForce
  let s := s.setBankState x .active
  let refs := s.engine.pendingRefs
  let s := s.setPins (fun c a => (a && !s.engine.activeRefs.contains c) || refs.contains c)
    (fun c p => p && !refs.contains c)
  let g := s.geometryOf (.bank x)
  let s := { s with
    engine := { s.engine with inForce := .bank x, activeRefs := refs, pendingRefs := [], pendingSwitch := none }
    serial := { s.serial with ratioN := g.ratioN, ratioD := g.ratioD, accumulator := 0 } }
  let s := s.convert tag Command.switch.code Status.switched.code s.countPayload
  s.count .switchesDone 1

/-- A pending stop is carried out (R63). -/
def State.installBoot (s : State) (tag : Byte) : State :=
  let s := s.retireInForce
  let s := s.setPins (fun c a => a && !s.engine.activeRefs.contains c) (fun _ p => p)
  let s := { s with
    engine := { s.engine with inForce := .boot, activeRefs := [], pendingSwitch := none }
    serial := { s.serial with
      ratioN := bootGeometry.ratioN, ratioD := bootGeometry.ratioD, accumulator := 0 } }
  s.convert tag Command.stop.code Status.stopped.code s.countPayload

/-- Step 6 of the frame start at a cycle boundary (R46). -/
def State.carryOut (s : State) : State :=
  match s.engine.pendingSwitch with
  | none => s
  | some ⟨.bank x, tag⟩ => s.installBank x tag
  | some ⟨.boot, tag⟩ => s.installBoot tag

/-! ### The frame start (R46) -/

/-- The frame index of the frame that begins (R45). -/
def nextFrameIndex (depth : Nat) : Option Nat → Nat
  | none => 0
  | some f => if f + 1 < depth then f + 1 else 0

/-- The first fetch after a reset takes the boot ratio with accumulator 0 (R113). -/
def State.bootRatio (s : State) : State :=
  if s.engine.frameIndex.isNone then
    { s with serial := { s.serial with
        ratioN := bootGeometry.ratioN, ratioD := bootGeometry.ratioD, accumulator := 0 } }
  else s

/-- Steps 2 and 3 of the frame start: a pending load is applied, then the latch takes the counter (R49, R121). -/
def TimeBase.frameStart (t : TimeBase) : TimeBase :=
  match t.load with
  | some v => { t with counter := v, count := 0, load := none, latch := v }
  | none => { t with latch := t.counter }

/-- The frame count of the frame that begins (R47). -/
def nextFrameCount : Option (BitVec 32) → BitVec 32
  | none => 0
  | some n => n + 1

/-- The frame start work, steps 1 to 6 of R46. -/
def State.frameStart (s : State) : State :=
  let s := s.bootRatio
  let f := nextFrameIndex s.geometry.depth s.engine.frameIndex
  let s := { s with
    engine := { s.engine with frameIndex := some f, frameCount := some (nextFrameCount s.engine.frameCount) }
    timeBase := s.timeBase.frameStart }
  let s := s.tick
  if f = 0 then s.carryOut else s

/-! ### The word fetch and the bit strobe (R28, R110) -/

/-- The bit of a word, as a level on ODAT. -/
def bitLevel (w : BitVec 16) (i : Nat) : Level := if w.getLsbD i then .high else .low

/-- The word fetch (R28): frame start work at place 0, the word of the place in the format then in force, and the
place after it; the serializer begins to shift the word out (R110). -/
def State.fetch (s : State) : State :=
  let p := s.engine.place
  let s := if p = 0 then s.frameStart else s
  let g := s.geometry
  let built := s.content p (s.slotAt p)
  let word : OutWord := ⟨g.width, BitVec.ofNat 16 (built.2 % 2 ^ g.width)⟩
  let s := built.1
  { s with
    engine := { s.engine with place := if p + 1 < g.length then p + 1 else 0 }
    serial := { s.serial with
      word := some word
      remaining := g.width - 1
      odat := bitLevel word.bits (g.width - 1)
      ofrm := if p = 0 then .low else .high } }

/-- The next bit of the word in progress (R110). -/
def Serializer.shift (z : Serializer) (w : OutWord) : Serializer :=
  { z with
    remaining := z.remaining - 1
    odat := bitLevel w.bits (z.remaining - 1)
    ofrm := .high }

/-- What a strobe does besides its bit or word: in MASTER mode OCLK is driven low (R111), and a count that was to
follow the strobe is taken (R121). -/
def State.endStrobe (s : State) : State :=
  { s with
    serial := { s.serial with
      strobeDue := false
      oclk := match s.pins.linkMode with | .master => .low | .follower => s.serial.oclk }
    timeBase := s.timeBase.takeEdge }

/-- A bit strobe (R110): the next bit of the word in progress, or, with no bits remaining or no word, a word fetch. -/
def State.strobe (s : State) : State :=
  match s.serial.word with
  | some w =>
    if s.serial.remaining = 0 then s.fetch.endStrobe
    else { s with serial := s.serial.shift w }.endStrobe
  | none => s.fetch.endStrobe

/-- A bit strobe occurs: in MASTER mode at the REFCLK edge that made it (R111), in FOLLOWER mode at a falling edge of
OCLK (R114); never while RESETN is asserted (R116). -/
def State.strobeOccurs (s : State) : Bool :=
  s.pins.resetn = .high && (s.pins.linkMode = .follower || s.serial.strobeDue)

/-- The strobe would be a word fetch (R110). -/
def State.wordNeeded (s : State) : Bool := s.serial.word.isNone || s.serial.remaining == 0

/-- WORD_FETCH (R28, R110): the strobe that begins a word. While bits of a word remain, or no strobe occurs, there
is no fetch and nothing changes (log 1). -/
def execWordFetch (s : State) : Host.Outcome State Fault Refusal :=
  if s.strobeOccurs ∧ s.wordNeeded then .next s.fetch.endStrobe else .next s

/-- BIT_STROBE (R110, R114): the next bit of the word in progress; a strobe that finds no bits remaining is a word
fetch (R110; log 6). Where no strobe occurs nothing changes (R111, R116; log 1). -/
def execBitStrobe (s : State) : Host.Outcome State Fault Refusal :=
  if s.strobeOccurs then .next s.strobe else .next s

/-! ### REFCLK (R111, R118) -/

/-- The pacer's part of a REFCLK edge in MASTER mode: OCLK is driven high, N is added, and if the sum reaches D, D is
subtracted and a strobe is due at this edge (R111). -/
def Serializer.pace (z : Serializer) : Serializer :=
  let sum := z.accumulator + z.ratioN.toNat
  if z.ratioD.toNat ≤ sum then { z with accumulator := sum - z.ratioD.toNat, oclk := .high, strobeDue := true }
  else { z with accumulator := sum, oclk := .high }

/-- TIME_COUNTER_ADVANCE where it is due. -/
def State.advanceTime (s : State) : State := { s with timeBase := s.timeBase.advance }

/-- What earlier edges began and no command has finished: a validation completion (R16), an advance (R118), the bit
strobe of the last edge (R111), and the advance that may follow it. They belong before the next edge (log 5). -/
def State.finishEdge (s : State) : State :=
  let s := s.completeValidation.advanceTime
  let s := if s.serial.strobeDue then s.strobe else s
  s.advanceTime

/-- A rising edge of REFCLK with RESETN released and nothing of an earlier edge left: the pacer (R111), one period of
validation (R16), and the prescaler count, at once or after the strobe that this edge makes (R118, R121). -/
def State.refclkEdge (s : State) (order : EdgeOrder) : State :=
  let serial := match s.pins.linkMode with
    | .master => s.serial.pace
    | .follower => s.serial
  let owed : TimeBase :=
    if order = .strobeFirst ∧ serial.strobeDue then { s.timeBase with edge := .afterStrobe }
    else { s.timeBase with edge := .advanceDue }.takeEdge
  { s.validatePeriod with serial := serial, timeBase := owed }

/-- REFCLK_RISING_EDGE (R111, R118). Edges while RESETN is asserted change nothing (R116, R118). -/
def execRefclkRisingEdge (order : EdgeOrder) (s : State) : Host.Outcome State Fault Refusal :=
  if s.pins.resetn = .high then .next (s.finishEdge.refclkEdge order) else .next s

/-- TIME_COUNTER_ADVANCE (R118): where an edge's count reaches P. Otherwise it does not occur (log 1). -/
def execTimeCounterAdvance (s : State) : Host.Outcome State Fault Refusal := .next s.advanceTime

end Sys2Proof.Machine
end

