-- ==== Sys2Proof/Machine/Intake.lean ====
section
/-! DEFINITION. The intake link: reception (R161), the completion checks with the check sum (R162 to R164), the address
filter (R165) and dispatch (R166, R167, R147). -/

namespace Sys2Proof.Machine

/-! ### The check sum (R164) -/

/-- One bit into the check-sum register. -/
def crcBit (reg : BitVec 16) (bit : Bool) : BitVec 16 :=
  if reg.getLsbD 15 != bit then (reg <<< 1) ^^^ 0x1021 else reg <<< 1

/-- One byte into the register, bit 7 first. -/
def crcByte (reg : BitVec 16) (b : Byte) : BitVec 16 :=
  [7, 6, 5, 4, 3, 2, 1, 0].foldl (fun r i => crcBit r (b.getLsbD i)) reg

/-- The check sum of a list of bytes. -/
def crc (bs : List Byte) : BitVec 16 := bs.foldl crcByte 0xFFFF

/-! ### Completion checks (R162, R163) -/

/-- The kinds of message (11.2). -/
inductive MessageKind where
  | sample | block | command
  deriving DecidableEq, Repr

/-- The kind that byte 0 carries in bits 7 to 4; none unless it is 1, 2 or 3 and the spare bits 1 to 0 are zero
(R162 check 4). -/
def kindOf (b : Byte) : Option MessageKind :=
  if b.toNat % 4 ≠ 0 then none
  else
    match b.toNat / 16 with
    | 1 => some .sample
    | 2 => some .block
    | 3 => some .command
    | _ => none

/-- LEN is one that the kind accepts; a BLOCK is judged on its count byte (R163). -/
def lenAccepted (kind : MessageKind) (m : List Byte) : Bool :=
  let len := (byteAt m 1).toNat
  match kind with
  | .sample => len == 6
  | .block =>
    let n := (byteAt m 5).toNat
    1 ≤ n && n ≤ 16 && len == 4 + 3 * n
  | .command => 2 ≤ len && len ≤ 62

/-- The judgement of a message that has ended (R162): the counter of the first check that fails, or its kind. -/
def judgeMessage (i : Intake) : Except DeviceCounter MessageKind :=
  let m := i.buffer
  if i.bits ≠ [] ∨ m.length < 4 ∨ i.overlong then .error .framingErrors
  else if m.length ≠ (byteAt m 1).toNat + 4 then .error .lengthErrors
  else if (crc (m.take (m.length - 2))).toNat ≠ fieldAt m (m.length - 2) 2 then .error .crcErrors
  else
    match kindOf (byteAt m 0) with
    | none => .error .kindErrors
    | some k => if lenAccepted k m then .ok k else .error .lengthErrors

/-! ### Dispatch (R165 to R167) -/

/-- A command record joins the command queue, or is lost at a full one (R147). -/
def State.pushCommand (s : State) (r : CmdRecord) : State :=
  if s.commands.length < 8 then { s with commands := s.commands ++ [r] }
  else s.report .commandsLost 1 .cmdLost

/-- The channel of a SAMPLE or BLOCK body: the low 10 bits of its first two bytes (R166). -/
def messageChannel (m : List Byte) : Nat := fieldAt m 2 2 % 1024

/-- A good message with this part's address is dispatched by its kind (R166, R167). -/
def State.dispatch (s : State) (m : List Byte) : MessageKind → State
  | .sample => s.arriveAll (messageChannel m) (byteAt m 4) [BitVec.ofNat 24 (fieldAt m 5 3)]
  | .block =>
    s.arriveAll (messageChannel m) (byteAt m 4)
      ((groupsOf 3 (byteAt m 5).toNat (m.drop 6)).map fun v => BitVec.ofNat 24 (natOfBytes v))
  | .command => s.pushCommand ⟨byteAt m 2, byteAt m 3, (m.drop 4).take ((byteAt m 1).toNat - 2)⟩

/-- The address field: bits 3 to 2 of byte 0 (R165). -/
def addressField (m : List Byte) : BitVec 2 := (byteAt m 0).extractLsb' 2 2

/-- The completion of a message: checked (R162), filtered (R165) and dispatched; the interface returns to IDLE. The spec
does not say what buffer, bit count and overlong mark hold in IDLE after it, before the next fall of IFRM clears them
(R161); that they are cleared at the completion is the model's choice (log 21). -/
def State.completeMessage (s : State) : State :=
  let i := s.intake
  let s := { s with intake := .idle }
  match judgeMessage i with
  | .error c => s.report c 1 .intakeErr
  | .ok k => if addressField i.buffer = s.pins.nodeAddress then s.dispatch i.buffer k else s

/-! ### The lines (R161, R168) -/

/-- MESSAGE_COMPLETION (R162): IFRM rises. In IDLE, and while RESETN is asserted, a rise completes nothing
(R161, R168). -/
def execMessageCompletion (s : State) : Host.Outcome State Fault Refusal :=
  let s := { s with pins := { s.pins with ifrm := .high } }
  if s.pins.resetn = .high ∧ s.intake.receiving then .next s.completeMessage else .next s

/-- IFRM_FALL (R161): a falling edge in IDLE begins a message. A line that is low already does not fall, and a fall
while RESETN is asserted begins nothing (R168; log 10). -/
def execIfrmFall (s : State) : Host.Outcome State Fault Refusal :=
  match s.pins.ifrm with
  | .low => .next s
  | .high =>
    let s := { s with pins := { s.pins with ifrm := .low } }
    if s.pins.resetn = .high ∧ ¬ s.intake.receiving then
      .next { s with intake := ⟨true, [], [], false⟩ }
    else .next s

/-- The byte that eight bits make, the first received the most significant (R161). -/
def byteOfBits (bits : List Bool) : Byte := BitVec.ofNat 8 (bits.foldl (fun n b => 2 * n + b.toNat) 0)

/-- One more bit of the message in reception (R161). -/
def Intake.receive (i : Intake) (bit : Bool) : Intake :=
  let bits := i.bits ++ [bit]
  if bits.length < 8 then { i with bits := bits }
  else if i.buffer.length < 66 then { i with bits := [], buffer := i.buffer ++ [byteOfBits bits] }
  else { i with bits := [], overlong := true }

/-- ICLK_RISING_EDGE (R161): ignored in IDLE and while RESETN is asserted (R168). -/
def execIclkRisingEdge (idat : Level) (s : State) : Host.Outcome State Fault Refusal :=
  if s.pins.resetn = .high ∧ s.intake.receiving then
    .next { s with intake := s.intake.receive (idat == .high) }
  else .next s

end Sys2Proof.Machine
end

