-- ==== Sys2Proof/Machine/PartCommands.lean ====
section
/-! DEFINITION. SWITCH and STOP (R56, R57, R61, R62), the time commands (R119, R120), the counter commands (R143, R144),
PING (R154) and an unknown command (R151) at their takes. -/

namespace Sys2Proof.Machine

/-! ### SWITCH and STOP -/

/-- The take of a SWITCH of the right length (R56, R57). An accepted one keeps its reservation. -/
def State.switch (r : CmdRecord) (s : State) : State :=
  match bankOf (byteAt r.args 0) with
  | none => s.reply r .badArgument []
  | some x =>
    if s.engine.pendingSwitch.isSome then s.reply r .busy []
    else if s.engine.frameIndex.isNone then s.reply r .busy []
    else if (s.bank x).state = .active then s.reply r .bankActive []
    else { s.setBankState x .validating with validation := some ⟨x, r.tag, .test .geometry⟩ }

/-- SWITCH (R56). -/
def execSwitch (s : State) : Host.Outcome State Fault Refusal := s.takeCommand .switch State.switch

/-- The cancellation of the pending switch to bank `x` with the SWITCH's tag (R62). -/
def State.cancelSwitch (s : State) (x : BankId) (tag : Byte) : State :=
  let refs := s.engine.pendingRefs
  let s := s.setBankState x .editable
  let s := s.setPins (fun _ a => a) (fun c p => p && !refs.contains c)
  let s := { s with engine := { s.engine with pendingRefs := [], pendingSwitch := none } }
  s.convert tag Command.switch.code Status.cancelled.code []

/-- A stop made pending in RUN, its reservation kept (R61). -/
def State.makeStopPending (s : State) (tag : Byte) : State :=
  { s with engine := { s.engine with pendingSwitch := some ⟨.boot, tag⟩ } }

/-- The take of a STOP of the right length, by the table of R61. -/
def State.stop (r : CmdRecord) (s : State) : State :=
  match s.engine.inForce, s.engine.pendingSwitch with
  | .boot, none => s.reply r .ok []
  | .boot, some ⟨.bank x, tag⟩ => (s.cancelSwitch x tag).reply r .ok []
  | .bank _, none => s.makeStopPending r.tag
  | .bank _, some ⟨.bank x, tag⟩ => (s.cancelSwitch x tag).makeStopPending r.tag
  | .bank _, some ⟨.boot, _⟩ => s.reply r .busy []
  | .boot, some ⟨.boot, _⟩ => s.reply r .busy []

/-- STOP (R61). -/
def execStop (s : State) : Host.Outcome State Fault Refusal := s.takeCommand .stop State.stop

/-! ### Time base -/

/-- The time base with the prescaler set to `p` (R119). An edge at the same instant whose advance has not been taken
counts 1 under the new prescaler (R119, take first; log 4). -/
def TimeBase.setPrescaler (t : TimeBase) (p : Nat) : TimeBase :=
  let t := { t with prescaler := p, count := 0 }
  match t.edge with
  | .advanceDue => t.takeEdge
  | .taken | .afterStrobe => t

/-- The take of a SET_TIMEBASE of the right length (R119): its argument carries P - 1. -/
def State.setTimebase (r : CmdRecord) (s : State) : State :=
  { s with timeBase := s.timeBase.setPrescaler (fieldAt r.args 0 2 + 1) }.reply r .ok []

/-- SET_TIMEBASE (R119). -/
def execSetTimebase (s : State) : Host.Outcome State Fault Refusal := s.takeCommand .setTimebase State.setTimebase

/-- The take of a SET_TIME of the right length (R120). -/
def State.setTime (r : CmdRecord) (s : State) : State :=
  { s with timeBase := { s.timeBase with load := some (BitVec.ofNat 48 (fieldAt r.args 0 6)) } }.reply r .ok []

/-- SET_TIME (R120). -/
def execSetTime (s : State) : Host.Outcome State Fault Refusal := s.takeCommand .setTime State.setTime

/-! ### Counters -/

/-- The 24-byte payload of READ_COUNTERS (R143). -/
def DeviceCounters.payload (d : DeviceCounters) : List Byte := d.inOrder.flatMap fun k => bytesOf 2 k.toNat

/-- The device counters at 0. -/
def State.clearDevice (s : State) : State := { s with health := { s.health with counters := .zero } }

/-- The take of a READ_COUNTERS of the right length (R143). -/
def State.readCounters (r : CmdRecord) (s : State) : State :=
  let payload := s.health.counters.payload
  if byteAt r.args 0 = 0x00 then s.reply r .ok payload
  else if byteAt r.args 0 = 0x01 then s.clearDevice.reply r .ok payload
  else s.reply r .badArgument []

/-- READ_COUNTERS (R143). -/
def execReadCounters (s : State) : Host.Outcome State Fault Refusal := s.takeCommand .readCounters State.readCounters

/-- A record with its seven counters at 0. -/
def Channel.clearCounters (ch : Channel) : Channel := { ch with counters := .zero }

/-- The take of a CLEAR_COUNTERS of the right length (R144). -/
def State.clearCounters (r : CmdRecord) (s : State) : State :=
  match (byteAt r.args 0).toNat with
  | 0x00 => s.clearDevice.reply r .ok []
  | 0x01 =>
    let c := fieldAt r.args 1 2
    if ¬ channelOk c then s.reply r .badArgument []
    else if (s.channel c).keeping = .undefined then s.reply r .notDefined []
    else (s.setChannel c (s.channel c).clearCounters).reply r .ok []
  | 0x02 => { s with channels := Table.update (fun _ ch => ch.clearCounters) s.channels }.reply r .ok []
  | _ => s.reply r .badArgument []

/-- CLEAR_COUNTERS (R144). -/
def execClearCounters (s : State) : Host.Outcome State Fault Refusal :=
  s.takeCommand .clearCounters State.clearCounters

/-! ### PING and unknown commands -/

/-- The state byte of PING (11.5). -/
def State.pingState (s : State) : Byte :=
  BitVec.ofNat 8 (s.pins.nodeAddress.toNat
    + (match s.pins.linkMode with | .master => 4 | .follower => 0)
    + (if s.engine.inForce ≠ .boot then 8 else 0)
    + (if s.engine.pendingSwitch.isSome then 16 else 0))

/-- The 8-byte payload of PING (R154). An absent frame count is reported as 0. -/
def State.pingPayload (s : State) : List Byte :=
  bytesOf 2 partCode ++ [revision, s.pingState] ++ bytesOf 4 (s.engine.frameCount.getD 0).toNat

/-- The take of a PING of the right length (R154). -/
def State.ping (r : CmdRecord) (s : State) : State := s.reply r .ok s.pingPayload

/-- PING (R154). -/
def execPing (s : State) : Host.Outcome State Fault Refusal := s.takeCommand .ping State.ping

/-- UNKNOWN_COMMAND (R151 step 3): the take of a record whose code is not in the catalogue. -/
def execUnknownCommand (s : State) : Host.Outcome State Fault Refusal :=
  s.take (fun r => commandOf r.code == none) fun r s => s.reply r .unknownCommand []

end Sys2Proof.Machine
end

