-- ==== Sys2Proof/Machine/Resets.lean ====
section
/-! DEFINITION. The three resets: RESETN (R66, R109, R116, R168) and RESET_PART with its two options and its refusals
(R155 to R160). -/

namespace Sys2Proof.Machine

/-- RESETN asserted with LMODE presenting `lmode`: every block at its pin-reset values (R25, R26, R66, R91, R108, R116,
R123, R134, R146, R160, R168). The straps captured at the last release are not captured again here (R109). -/
def State.pinReset (s : State) (lmode : Level) : State :=
  { State.reset with
    pending := s.pending
    pins := { s.pins with resetn := .low, lmode := lmode }
    serial := .reset lmode }

/-- The node address that ADR1 and ADR0 form (R109). The spec does not say which strap is the more significant bit, nor
which level is a 1; that ADR1 is bit 1, ADR0 bit 0 and high a 1 is the model's choice (log 20). -/
def addressOf (adr1 adr0 : Level) : BitVec 2 :=
  (if adr1 = .high then 2 else 0) + (if adr0 = .high then 1 else 0)

/-- The mode that LMODE selects: high MASTER, low FOLLOWER (R109). -/
def modeOf : Level → LinkMode
  | .high => .master
  | .low => .follower

/-- RESETN released: the straps are captured, OCLK takes the direction of the mode, and READY with cause PIN is
appended (R109, R116, R133). The rest stands at its pin-reset values. -/
def State.releaseReset (s : State) (lmode adr1 adr0 : Level) : State :=
  let s := { s with
    pins := { s.pins with
      resetn := .high
      lmode := lmode
      linkMode := modeOf lmode
      nodeAddress := addressOf adr1 adr0 }
    serial := { s.serial with oclk := match modeOf lmode with | .master => .high | .follower => .undriven } }
  s.ready .pin

/-- PIN_RESET_ASSERT (R66). -/
def execPinResetAssert (lmode : Level) (s : State) : Host.Outcome State Fault Refusal := .next (s.pinReset lmode)

/-- PIN_RESET_RELEASE (R109). With RESETN already high there is no edge, and nothing changes (log 1). -/
def execPinResetRelease (lmode adr1 adr0 : Level) (s : State) : Host.Outcome State Fault Refusal :=
  match s.pins.resetn with
  | .low => .next (s.releaseReset lmode adr1 adr0)
  | .high => .next s

/-- A RESTART on one channel record: the definition, options and counters kept; NEVER with age 255; last sequence
absent; cells at the fill value; queue empty; pin flags clear (R91, R108). -/
def Channel.restart (ch : Channel) : Channel :=
  match ch.keeping with
  | .undefined => ch
  | .latest p =>
    { ch with
      keeping := .latest { p with freshness := .never, age := 255 }
      lastSeq := none
      latestCell := ch.fill
      holdCell := ch.fill
      activeRef := false
      pendingRef := false }
  | .queued p =>
    { ch with
      keeping := .queued { p with queue := [] }
      lastSeq := none
      latestCell := ch.fill
      holdCell := ch.fill
      activeRef := false
      pendingRef := false }

/-- The effects of RESTART (R158); READY is appended last (R157). -/
def State.restart (s : State) : State :=
  let s := { s with
    commands := []
    validation := none
    replies := .empty
    engine := .reset
    bankA := { s.bankA with state := .editable }
    bankB := { s.bankB with state := .editable }
    channels := Table.update (fun _ ch => ch.restart) s.channels
    freeCells := 2048
    timeBase := { s.timeBase with load := none }
    health := { s.health with latched := Health.reset.latched } }
  s.ready .restart

/-- The effects of a FULL reset (R159); READY is appended last (R157). -/
def State.fullReset (s : State) : State :=
  let s := { s with
    commands := []
    validation := none
    replies := .empty
    engine := .reset
    bankA := .clear
    bankB := .clear
    channels := []
    freeCells := 2048
    timeBase := { TimeBase.reset with latch := s.timeBase.latch }
    health := .reset }
  s.ready .full

/-- RESET_PART_RESTART (R158): the take of a RESET_PART whose one argument byte names RESTART. -/
def execResetPartRestart (s : State) : Host.Outcome State Fault Refusal :=
  s.take (fun r => resetOption r == some .restart) fun _ s => s.restart

/-- RESET_PART_FULL (R159): the take of a RESET_PART whose one argument byte names FULL. -/
def execResetPartFull (s : State) : Host.Outcome State Fault Refusal :=
  s.take (fun r => resetOption r == some .full) fun _ s => s.fullReset

/-- RESET_PART_REFUSED (R151 step 4, R155): a wrong argument length or option is answered, and no reset is made. -/
def execResetPartRefused (s : State) : Host.Outcome State Fault Refusal :=
  s.take (fun r => commandOf r.code == some .resetPart && resetOption r == none) fun r s =>
    if Command.resetPart.accepts r.args.length then s.reply r .badArgument [] else s.reply r .badLength []

end Sys2Proof.Machine
end

