-- ==== Sys2Proof/Machine/Dispatch.lean ====
section
/-! DEFINITION. One arm for each command of the table: its effect on everything but the queue of waiting commands. -/

namespace Sys2Proof.Machine

def exec (i : Instr) (s : State) : Host.Outcome State Fault Refusal :=
  match i with
  | .pinResetAssert lmode => Sys2Proof.Machine.execPinResetAssert lmode s
  | .pinResetRelease lmode adr1 adr0 => Sys2Proof.Machine.execPinResetRelease lmode adr1 adr0 s
  | .messageCompletion => Sys2Proof.Machine.execMessageCompletion s
  | .wordFetch => Sys2Proof.Machine.execWordFetch s
  | .timeCounterAdvance => Sys2Proof.Machine.execTimeCounterAdvance s
  | .validationCompletion => Sys2Proof.Machine.execValidationCompletion s
  | .ping => Sys2Proof.Machine.execPing s
  | .resetPartRestart => Sys2Proof.Machine.execResetPartRestart s
  | .resetPartFull => Sys2Proof.Machine.execResetPartFull s
  | .defineChannel => Sys2Proof.Machine.execDefineChannel s
  | .undefineChannel => Sys2Proof.Machine.execUndefineChannel s
  | .readChannel => Sys2Proof.Machine.execReadChannel s
  | .setFrame => Sys2Proof.Machine.execSetFrame s
  | .writeSlots => Sys2Proof.Machine.execWriteSlots s
  | .writeRotation => Sys2Proof.Machine.execWriteRotation s
  | .writePicks => Sys2Proof.Machine.execWritePicks s
  | .clearBank => Sys2Proof.Machine.execClearBank s
  | .readBank => Sys2Proof.Machine.execReadBank s
  | .switch => Sys2Proof.Machine.execSwitch s
  | .stop => Sys2Proof.Machine.execStop s
  | .setTimebase => Sys2Proof.Machine.execSetTimebase s
  | .setTime => Sys2Proof.Machine.execSetTime s
  | .readCounters => Sys2Proof.Machine.execReadCounters s
  | .clearCounters => Sys2Proof.Machine.execClearCounters s
  | .unknownCommand => Sys2Proof.Machine.execUnknownCommand s
  | .ifrmFall => Sys2Proof.Machine.execIfrmFall s
  | .iclkRisingEdge idat => Sys2Proof.Machine.execIclkRisingEdge idat s
  | .bitStrobe => Sys2Proof.Machine.execBitStrobe s
  | .refclkRisingEdge order => Sys2Proof.Machine.execRefclkRisingEdge order s
  | .resetPartRefused => Sys2Proof.Machine.execResetPartRefused s

end Sys2Proof.Machine
end

