-- ==== Sys2Proof/Safety.lean ====
section
/-! DEFINITION. What a safe state of the part is, block by block: the whole-part statements of the spec's prose, in the
terms the claims use. -/

namespace Sys2Proof.Machine

/-! ### Channel table and pool (R69, R70, R77, R93) -/

/-- The sum of the queue lengths of all channels. -/
def queuedTotal (t : Table Channel) : Nat := (t.map fun e => e.2.queue.length).sum

/-- No queue is longer than its depth limit (R93). -/
def Channel.withinLimit (ch : Channel) : Bool :=
  match ch.keeping with
  | .queued p => p.queue.length ≤ p.limit
  | .undefined | .latest _ => true

/-- Free cells and queue lengths add up to 2048, no queue is longer than its limit, and only channels 1 to 1023 are
defined, each listed once (R69, R93). -/
abbrev State.PoolInv (s : State) : Prop :=
  Table.wf .blank s.channels = true
  ∧ (∀ e ∈ s.channels, channelOk e.1 = true ∧ e.2.keeping ≠ .undefined ∧ e.2.withinLimit = true)
  ∧ s.freeCells + queuedTotal s.channels = 2048

/-- A LATEST record has an age and a limit in range; in NEVER its age is 255 and its latest cell holds the fill value;
in STALE its age is at least 2 (R70, R77). A QUEUED record has a limit from 1 to 255. -/
def Channel.agesWell (ch : Channel) : Bool :=
  match ch.keeping with
  | .undefined => true
  | .latest p =>
    p.age ≤ 255 && p.limit ≤ 254
      && (p.freshness ≠ .never || (p.age == 255 && ch.latestCell == ch.fill))
      && (p.freshness ≠ .stale || 2 ≤ p.age)
  | .queued p => 1 ≤ p.limit && p.limit ≤ 255

/-- R70 and R77 hold of every defined channel. -/
abbrev State.FreshnessInv (s : State) : Prop := ∀ e ∈ s.channels, e.2.agesWell = true

/-! ### Reply queue (R65, R124 to R129) -/

/-- The reservations that outlive their takes: that of the SWITCH in validation, or of the pending switch or stop
(R65, R125). -/
def State.owed (s : State) : List Reservation :=
  match s.validation, s.engine.pendingSwitch with
  | some v, _ => [⟨v.tag, Command.switch.code, 9⟩]
  | none, some ⟨.bank _, tag⟩ => [⟨tag, Command.switch.code, 9⟩]
  | none, some ⟨.boot, tag⟩ => [⟨tag, Command.stop.code, 9⟩]
  | none, none => []

/-- A record as R128 describes it: 5 to 37 bytes, its length in LEN, the sum of its bytes 0 mod 256. -/
def recordOk (r : List Byte) : Bool :=
  5 ≤ r.length && r.length ≤ 37 && (byteAt r 0).toNat == r.length && r.foldl (· + ·) 0 == 0

/-- The emission position is a byte of the head record, or 0 (R124). -/
def ReplyQueue.positionOk (q : ReplyQueue) : Bool :=
  match q.records with
  | [] => q.position == 0
  | r :: _ => q.position < r.length

/-- Records and reservations never pass 16 places and 512 bytes, every record is well made, and a reservation outlives
its take only for the SWITCH in validation or the pending switch or stop (R65, R124, R128). -/
abbrev State.ReplyInv (s : State) : Prop :=
  s.replies.reservations = s.owed
  ∧ (s.validation.isSome = true → s.engine.pendingSwitch = none)
  ∧ s.replies.records.length + s.replies.reservations.length ≤ 16
  ∧ recordBytes s.replies.records + reservedBytes s.replies.reservations ≤ 512
  ∧ s.replies.records.all recordOk = true
  ∧ s.replies.positionOk = true

/-! ### Format engine and bank states (R12, R54, R55) -/

/-- The state of bank `x` that the engine and the processor imply (R12, R54, R55). -/
def State.expectedBankState (s : State) (x : BankId) : BankState :=
  if s.engine.inForce = .bank x then .active
  else if s.engine.pendingSwitch.map PendingSwitch.target = some (.bank x) then .pending
  else if s.validation.map Validation.bank = some x then .validating
  else .editable

/-- The bank in force is ACTIVE, the target of a pending switch PENDING, the bank in validation VALIDATING, any other
EDITABLE; a pending switch never targets the format in force; nothing is pending or in validation, and boot is in
force at place 0, while no frame has started since the last reset (R26, R54, R55, R56). -/
abbrev State.EngineInv (s : State) : Prop :=
  s.bankA.state = s.expectedBankState .a
  ∧ s.bankB.state = s.expectedBankState .b
  ∧ (s.engine.pendingSwitch.map PendingSwitch.target ≠ some s.engine.inForce)
  ∧ (s.validation.map (fun v => Format.bank v.bank) ≠ some s.engine.inForce)
  ∧ (s.validation.isSome = true → s.engine.pendingSwitch = none)
  ∧ (s.engine.frameIndex.isSome = s.engine.frameCount.isSome)
  ∧ (s.engine.frameIndex = none →
      s.engine.inForce = .boot ∧ s.engine.pendingSwitch = none ∧ s.validation = none ∧ s.engine.place = 0)

/-! ### Formats (R2, R17, R26, R27) -/

/-- A present geometry is in the ranges of R2. -/
def Bank.geometryOk (b : Bank) : Bool :=
  match b.geometry with
  | none => true
  | some g => 8 ≤ g.width && g.width ≤ 16 && 4 ≤ g.length && g.length ≤ 512 && 1 ≤ g.depth && g.depth ≤ 256

/-- The bank passes the four whole-format tests of R17 under the link mode given. -/
def Bank.wholeOk (mode : LinkMode) (b : Bank) : Bool :=
  [WholeTest.geometry, .rate, .reply, .narrow].all fun t => wholeFinding mode b t == none

/-- Validation has made the whole-format tests. -/
def Progress.pastTests : Progress → Bool
  | .examine _ _ _ _ | .passed _ => true
  | .test _ | .found _ => false

/-- The whole-format tests that validation made before its next one. -/
def Progress.testsDone : Progress → List WholeTest
  | .test .geometry => []
  | .test .rate => [.geometry]
  | .test .reply => [.geometry, .rate]
  | .test .narrow => [.geometry, .rate, .reply]
  | .examine _ _ _ _ | .passed _ => [.geometry, .rate, .reply, .narrow]
  | .found _ => []

/-- Every geometry is in range; the tests that a validation has made passed; a PENDING or ACTIVE bank passes the
whole-format tests, so it has a geometry with W at least 10 and a REPLY place below F; place and frame index are in
the range of the format in force (R2, R17, R26, R27). -/
abbrev State.FormatInv (s : State) : Prop :=
  (∀ x : BankId, (s.bank x).geometryOk = true)
  ∧ (∀ x : BankId, (s.bank x).state = .active ∨ (s.bank x).state = .pending →
      (s.bank x).wholeOk s.pins.linkMode = true)
  ∧ (∀ v ∈ s.validation, (s.bank v.bank).state = .validating
      ∧ ∀ t ∈ v.progress.testsDone, wholeFinding s.pins.linkMode (s.bank v.bank) t = none)
  ∧ s.engine.place < s.geometry.length
  ∧ (∀ f ∈ s.engine.frameIndex, f < s.geometry.depth)

/-! ### Pins of channels (R55, R64) -/

/-- The channels that the validation in progress has referenced so far. -/
def State.validationRefs (s : State) : List Nat :=
  match s.validation with
  | none => []
  | some v =>
    match v.progress with
    | .examine _ _ _ refs | .passed refs => refs
    | .test _ | .found _ => []

/-- The pin flags are membership in the two reference sets; every channel of the sets, and every channel the validation
in progress has referenced, is defined; the sets are empty where R55 says so (R55, R64). -/
abbrev State.PinInv (s : State) : Prop :=
  (∀ e ∈ s.channels, e.2.activeRef = s.engine.activeRefs.contains e.1
      ∧ e.2.pendingRef = s.engine.pendingRefs.contains e.1)
  ∧ (∀ c ∈ s.engine.activeRefs ++ s.engine.pendingRefs ++ s.validationRefs, s.isUndefined c = false)
  ∧ (s.engine.inForce = .boot → s.engine.activeRefs = [])
  ∧ (s.engine.pendingSwitch = none ∨ s.engine.pendingSwitch.map PendingSwitch.target = some .boot →
      s.engine.pendingRefs = [])

/-! ### Time base, pacer, intake, commands, health -/

/-- P is from 1 to 65536 and the count below it; an advance is due only where the count completes P; work left to a
strobe implies that the strobe is due (R118; log 4). -/
abbrev State.TimeInv (s : State) : Prop :=
  1 ≤ s.timeBase.prescaler ∧ s.timeBase.prescaler ≤ 65536
  ∧ s.timeBase.count < s.timeBase.prescaler
  ∧ (s.timeBase.edge = .advanceDue → s.timeBase.count + 1 = s.timeBase.prescaler)
  ∧ (s.timeBase.edge = .afterStrobe → s.serial.strobeDue = true)

/-- The pacer: in MASTER mode N is at least 1, 2N at most D and the accumulator below D; in FOLLOWER mode the
accumulator is 0 and no strobe is due (R110, R111, R113). -/
abbrev State.PacerInv (s : State) : Prop :=
  match s.pins.linkMode with
  | .master => 1 ≤ s.serial.ratioN.toNat ∧ 2 * s.serial.ratioN.toNat ≤ s.serial.ratioD.toNat
      ∧ s.serial.accumulator < s.serial.ratioD.toNat
  | .follower => s.serial.accumulator = 0 ∧ s.serial.strobeDue = false

/-- The intake interface holds at most 66 bytes and 7 bits; in IDLE its buffer, bit count and overlong mark are as R168
leaves them, after a completion by the model's choice (log 21); a message in reception has IFRM low (R161). -/
abbrev State.IntakeInv (s : State) : Prop :=
  s.intake.buffer.length ≤ 66 ∧ s.intake.bits.length ≤ 7
  ∧ (s.intake.receiving = false → s.intake = .idle)
  ∧ (s.intake.receiving = true → s.pins.ifrm = .low)

/-- At most 8 command records, each with at most 60 argument bytes (R147). -/
abbrev State.CommandInv (s : State) : Prop :=
  s.commands.length ≤ 8 ∧ ∀ r ∈ s.commands, r.args.length ≤ 60

/-- Only the nine latched positions are ever set (R136). -/
abbrev State.HealthInv (s : State) : Prop := s.health.latched &&& latchedPositions = s.health.latched

/-- While RESETN is asserted every block stands at its pin-reset value (R66, R116, R123, R135, R146, R160, R168). -/
abbrev State.ResetHeld (s : State) : Prop := s.pins.resetn = .low → s = s.pinReset s.pins.lmode

/-! ### Banks (R4, R8, R10) -/

/-- A bank's contents are canonical tables of contents that the write commands accept (R5, R8, R10). -/
abbrev Bank.Ok (b : Bank) : Prop :=
  Table.wf .empty b.template = true
  ∧ (∀ e ∈ b.template, e.1 ≤ 511 ∧ e.2.accepted = true)
  ∧ Table.wf [] b.rotation = true
  ∧ (∀ e ∈ b.rotation, e.1 ≤ 31 ∧ e.2.length ≤ 64 ∧ ∀ d ∈ e.2, d.accepted = true ∧ d.listable = true)
  ∧ Table.wf .unset b.picks = true
  ∧ (∀ e ∈ b.picks, e.1 ≤ 511 ∧ e.2.accepted = true)

/-- Both banks' contents are in order (R4, R8, R10). -/
abbrev State.BankInv (s : State) : Prop := s.bankA.Ok ∧ s.bankB.Ok

/-- A validation has ended, with a finding or with success (R24). -/
def Progress.ended : Progress → Bool
  | .found _ | .passed _ => true
  | .test _ | .examine _ _ _ _ => false

/-! ### Nothing left of an earlier edge -/

/-- No validation completion, advance or strobe is due (log 5). -/
abbrev State.EdgeFinished (s : State) : Prop :=
  s.serial.strobeDue = false ∧ s.timeBase.edge = .taken
  ∧ (∀ v ∈ s.validation, v.progress.ended = false)

/-! ### Words for the claims -/

/-- The outcome of a command. -/
abbrev Answer := Host.Outcome State Fault Refusal

/-- What a command answered at its take leaves when it changes nothing but the two queues: its record has left the
command queue and its reply stands at the newest end of the reply queue (R126, R151). -/
def State.answered (s : State) (r : CmdRecord) (status : Byte) (payload : List Byte) : State :=
  { s with
    commands := s.commands.tail
    replies := { s.replies with records := s.replies.records ++ [replyRecord r.tag r.code status payload] } }

/-- The selector byte of a bank (R172). -/
def BankId.selector : BankId → Byte
  | .a => 0x00
  | .b => 0x01

/-- The arguments of a DEFINE_CHANNEL (11.3). -/
def defineArgs (c : Nat) (kind limit policy : Byte) (fill : Sample) (options : Byte) : List Byte :=
  bytesOf 2 c ++ [kind, limit, policy] ++ bytesOf 3 fill.toNat ++ [options]

/-- The command row that takes a catalogued command; RESET_PART has three rows of its own. -/
def Command.row : Command → Option Instr
  | .ping => some .ping
  | .resetPart => none
  | .defineChannel => some .defineChannel
  | .undefineChannel => some .undefineChannel
  | .readChannel => some .readChannel
  | .setFrame => some .setFrame
  | .writeSlots => some .writeSlots
  | .writeRotation => some .writeRotation
  | .writePicks => some .writePicks
  | .clearBank => some .clearBank
  | .readBank => some .readBank
  | .switch => some .switch
  | .stop => some .stop
  | .setTimebase => some .setTimebase
  | .setTime => some .setTime
  | .readCounters => some .readCounters
  | .clearCounters => some .clearCounters

/-- A word fetch occurs now: a strobe occurs and no bits remain (R28, R110). -/
abbrev State.FetchesNow (s : State) : Prop := s.strobeOccurs = true ∧ s.wordNeeded = true

/-- The state in which the word of a fetch is built: after the frame start work, at place 0 (R28 step 1, R46). -/
def State.atWord (s : State) : State := if s.engine.place = 0 then s.frameStart else s

/-- What a fetch does besides its frame start work and what its content changes: the word, the content's low W bits,
is handed to the serializer with its most significant bit on ODAT and OFRM low at place 0 alone, the place advances,
and the strobe ends (R28, R29, R110, R111). -/
def State.handedOver (s : State) (content : Nat) : State :=
  let w : BitVec 16 := BitVec.ofNat 16 (content % 2 ^ s.geometry.width)
  { s with
    engine := { s.engine with
      place := if s.engine.place + 1 < s.geometry.length then s.engine.place + 1 else 0 }
    serial := { s.serial with
      word := some ⟨s.geometry.width, w⟩
      remaining := s.geometry.width - 1
      odat := if w.getLsbD (s.geometry.width - 1) then .high else .low
      ofrm := if s.engine.place = 0 then .low else .high
      strobeDue := false
      oclk := if s.pins.linkMode = .master then .low else s.serial.oclk }
    timeBase := s.timeBase.takeEdge }

/-- The channels that a run of picks captures, each once, in the order of their first CAPTURE picks (R41); `seen` are
those captured before. -/
def firstCaptures (seen : List Nat) : List Pick → List Nat
  | [] => []
  | .channelBit c _ .capture :: ps =>
    if c ∈ seen then firstCaptures seen ps else c :: firstCaptures (c :: seen) ps
  | .channelBit _ _ .held :: ps | .unset :: ps | .zero :: ps | .one :: ps => firstCaptures seen ps

/-- The bit of pick `i` of a run resolved at a fetch (R37, R41): a CAPTURE pick, and a HELD pick after a CAPTURE pick
of its channel in the run, read the value that the fetch captures; an earlier HELD pick reads the hold cell. -/
def State.pickBit (s : State) (run : List Pick) (i : Nat) : Bool :=
  match run.getD i .unset with
  | .unset | .zero => false
  | .one => true
  | .channelBit c b m =>
    if m = .capture ∨ c ∈ firstCaptures [] (run.take i) then (s.capture c).2.getLsbD b
    else (s.channel c).holdCell.getLsbD b

/-- The number of strobes that `k` REFCLK edges make, from a pacer state (R111). -/
def Serializer.strobesIn (z : Serializer) : Nat → Nat
  | 0 => 0
  | k + 1 => (if z.ratioD.toNat ≤ z.accumulator + z.ratioN.toNat then 1 else 0) + z.pace.strobesIn k

/-- The pacer after `k` REFCLK edges (R111). -/
def Serializer.paced (z : Serializer) : Nat → Serializer
  | 0 => z
  | k + 1 => z.pace.paced k

/-- The number of REFCLK periods after which a validation of bank `b` has certainly ended: one for each whole-format test
and each place of each frame that it has yet to come to (R16). -/
def Progress.periodsLeft (p : Progress) (b : Bank) : Nat :=
  let g := b.geometry.getD bootGeometry
  match p with
  | .test .geometry => 4 + g.depth * g.length
  | .test .rate => 3 + g.depth * g.length
  | .test .reply => 2 + g.depth * g.length
  | .test .narrow => 1 + g.depth * g.length
  | .examine f place _ _ => (g.depth - (f + 1)) * g.length + (g.length - (place + 1)) + 1
  | .found _ | .passed _ => 0

end Sys2Proof.Machine
end

