-- ==== Sys2Proof/Certificates/Slice0/Obligations.lean ====
section
/-! DEFINITION. The statements about the part for the provers, in the order of OBLIGATIONS.json. A record taken from
the command queue is `r`; `s.answered r status payload` is `s` with `r` gone from the command queue and its reply at
the newest end of the reply queue, and nothing else changed. Where a clause rests on a choice of the model, its
docstring names the log entry. -/

open Sys2Proof Sys2Proof.Machine

/-! ### The queue of commands, reset and the pins -/

/-- A step runs the command at the front with the queue's rest; on an empty queue the block idles (log 3). -/
def Obligations.StepRunsTheFrontCommand : Prop :=
  (∀ (c : Instr) (rest : List Instr) (s : State),
    step { s with pending := c :: rest } = exec c { s with pending := rest })
  ∧ ∀ s : State, s.pending = [] → step s = .next s

/-- No command stops the part, and none touches the queue of waiting commands. -/
def Obligations.EveryCommandAnswersNext : Prop :=
  ∀ (i : Instr) (s : State), ∃ t, exec i s = .next t ∧ t.pending = s.pending

/-- The power-up state meets every invariant claimed below. -/
def Obligations.ResetMeetsTheInvariants : Prop :=
  State.reset.PoolInv ∧ State.reset.FreshnessInv ∧ State.reset.ReplyInv ∧ State.reset.EngineInv
  ∧ State.reset.FormatInv ∧ State.reset.PinInv ∧ State.reset.TimeInv ∧ State.reset.PacerInv
  ∧ State.reset.IntakeInv ∧ State.reset.CommandInv ∧ State.reset.HealthInv ∧ State.reset.BankInv
  ∧ State.reset.ResetHeld ∧ State.reset.EdgeFinished

/-- PIN_RESET_ASSERT puts every block at its pin-reset values whatever it held (R25, R26, R66, R91, R108, R116, R123,
R134, R146, R160, R168); OCLK follows the level that LMODE presents (R109; log 9); the straps captured at the last
release, IFRM and the queue of commands stay. IRDY is low (R148). -/
def Obligations.PinResetClearsEveryBlock : Prop :=
  ∀ (lmode : Level) (s : State), ∃ t, exec (.pinResetAssert lmode) s = .next t ∧ t.irdy = .low ∧ t = {
    pending := s.pending
    pins := { s.pins with resetn := .low, lmode := lmode }
    intake := ⟨false, [], [], false⟩
    channels := []
    freeCells := 2048
    bankA := ⟨none, [], [], [], .editable⟩
    bankB := ⟨none, [], [], [], .editable⟩
    engine := ⟨.boot, 0, none, none, none, [], []⟩
    serial := { word := none, remaining := 0, ratioN := 1, ratioD := 64, accumulator := 0
                oclk := if lmode = .high then .high else .undriven
                odat := .low, ofrm := .high, strobeDue := false }
    timeBase := { counter := 0, prescaler := 1, count := 0, load := none, latch := 0, edge := .taken }
    commands := []
    validation := none
    replies := ⟨[], 0, []⟩
    health := ⟨0x1000, ⟨0, 0, 0, 0, 0, 0, 0, 0, 0, 0, 0, 0⟩⟩ }

/-- PIN_RESET_RELEASE captures the link mode and the node address (R109), drives OCLK high in MASTER mode and leaves it
to the other side in FOLLOWER mode, appends READY with cause PIN as the only record (R133, R134) and raises IRDY
(R148). That ADR1 is bit 1 of the node address, ADR0 bit 0, and a high level a 1 is the model's choice (log 20). With
RESETN high already there is no edge and nothing changes (log 1). -/
def Obligations.ReleaseCapturesStrapsAndRaisesReady : Prop :=
  ∀ (lmode adr1 adr0 : Level) (s : State),
    (s.pins.resetn = .low → s.ResetHeld →
      ∃ (t : State) (address : BitVec 2),
        address.getLsbD 1 = decide (adr1 = .high) ∧ address.getLsbD 0 = decide (adr0 = .high)
        ∧ exec (.pinResetRelease lmode adr1 adr0) s = .next t ∧ t.irdy = .high
        ∧ t = { s with
            pins := { s.pins with
              resetn := .high
              lmode := lmode
              linkMode := if lmode = .high then .master else .follower
              nodeAddress := address }
            serial := { s.serial with oclk := if lmode = .high then .high else .undriven }
            replies := ⟨[replyRecord 0x00 0x81 0x80
              [0x01, 0x72, 0x08, 0x12, address.setWidth 8, if lmode = .high then 0x01 else 0x00]], 0, []⟩ })
    ∧ (s.pins.resetn = .high → exec (.pinResetRelease lmode adr1 adr0) s = .next s)

/-! ### Intake link -/

/-- IFRM_FALL begins a message in IDLE with RESETN released, and while RESETN is asserted moves the line alone (R161,
R168); a line that is low does not fall (log 10). Each ICLK_RISING_EDGE in reception adds the bit on IDAT; the eighth
bit completes a byte, most significant bit first, which is stored while fewer than 66 are held and otherwise sets the
overlong mark; outside reception, and while RESETN is asserted, the edge is ignored (R161). -/
def Obligations.IntakeLinesReceiveAMessage : Prop :=
  ∀ s : State,
    (s.pins.ifrm = .high → s.pins.resetn = .high → s.intake.receiving = false →
      exec .ifrmFall s = .next { s with
        pins := { s.pins with ifrm := .low }
        intake := { receiving := true, buffer := [], bits := [], overlong := false } })
    ∧ (s.pins.ifrm = .high → s.pins.resetn = .low →
      exec .ifrmFall s = .next { s with pins := { s.pins with ifrm := .low } })
    ∧ (s.pins.ifrm = .low → exec .ifrmFall s = .next s)
    ∧ ∀ idat : Level,
      (s.pins.resetn = .high → s.intake.receiving = true →
        (s.intake.bits.length < 7 →
          exec (.iclkRisingEdge idat) s = .next { s with
            intake := { s.intake with bits := s.intake.bits ++ [decide (idat = .high)] } })
        ∧ (s.intake.bits.length = 7 → s.intake.buffer.length < 66 →
          ∃ byte : Byte, (∀ i < 8, byte.getLsbD (7 - i) = (s.intake.bits ++ [decide (idat = .high)]).getD i false)
          ∧ exec (.iclkRisingEdge idat) s = .next { s with
            intake := { s.intake with bits := [], buffer := s.intake.buffer ++ [byte] } })
        ∧ (s.intake.bits.length = 7 → 66 ≤ s.intake.buffer.length →
          exec (.iclkRisingEdge idat) s = .next { s with intake := { s.intake with bits := [], overlong := true } }))
      ∧ (s.pins.resetn = .low ∨ s.intake.receiving = false → exec (.iclkRisingEdge idat) s = .next s)

/-- The completion checks in the order of R162, with the lengths of R163; a message that fails one is discarded and
counted once, in the counter of the first check that fails, and INTAKE_ERR is set. A rise of IFRM in IDLE or with
RESETN asserted completes nothing (R161, R168). That the completion empties the buffer and clears bit count and overlong
mark, which R161 clears at the next fall of IFRM, is the model's choice (log 21). -/
def Obligations.MessageChecksAreMadeInOrder : Prop :=
  (∀ i : Intake, judgeMessage i =
    let m := i.buffer
    let len := (m.getD 1 0).toNat
    let kind := (m.getD 0 0).toNat / 16
    if i.bits ≠ [] ∨ m.length < 4 ∨ i.overlong = true then .error .framingErrors
    else if m.length ≠ len + 4 then .error .lengthErrors
    else if crc (m.take (m.length - 2)) ≠ m.getD (m.length - 2) 0 ++ m.getD (m.length - 1) 0 then .error .crcErrors
    else if (m.getD 0 0).toNat % 4 ≠ 0 ∨ kind = 0 ∨ 3 < kind then .error .kindErrors
    else if kind = 1 then if len = 6 then .ok .sample else .error .lengthErrors
    else if kind = 2 then
      let n := (m.getD 5 0).toNat
      if 1 ≤ n ∧ n ≤ 16 ∧ len = 4 + 3 * n then .ok .block else .error .lengthErrors
    else if 2 ≤ len ∧ len ≤ 62 then .ok .command
    else .error .lengthErrors)
  ∧ ∀ s : State,
    (∀ c : DeviceCounter, s.pins.resetn = .high → s.intake.receiving = true → judgeMessage s.intake = .error c →
      exec .messageCompletion s = .next ({ s with
        pins := { s.pins with ifrm := .high }
        intake := ⟨false, [], [], false⟩ }.report c 1 .intakeErr))
    ∧ (s.pins.resetn = .low ∨ s.intake.receiving = false →
      exec .messageCompletion s = .next { s with pins := { s.pins with ifrm := .high } })

/-- A good message with another node's address is ignored (R165). With this node's address a SAMPLE makes one arrival
and a BLOCK its n arrivals in body order, value i with sequence number (first + i) mod 256 (R73, R166); a COMMAND
becomes a record at the newest end of the command queue, or is discarded and counted when 8 are held (R147, R167). IRDY
is high while RESETN is released and the queue has a free place, and low otherwise (R148). That the completion empties
the buffer and clears bit count and overlong mark is the model's choice (log 21). -/
def Obligations.GoodMessagesAreDispatched : Prop :=
  (∀ s : State, s.irdy = if s.pins.resetn = .high ∧ s.commands.length < 8 then .high else .low)
  ∧ ∀ (s : State) (k : MessageKind),
    s.pins.resetn = .high → s.intake.receiving = true → judgeMessage s.intake = .ok k →
    let m := s.intake.buffer
    let t := { s with pins := { s.pins with ifrm := .high }, intake := ⟨false, [], [], false⟩ }
    let c := ((m.getD 2 0).toNat * 256 + (m.getD 3 0).toNat) % 1024
    ((m.getD 0 0).toNat / 4 % 4 ≠ s.pins.nodeAddress.toNat → exec .messageCompletion s = .next t)
    ∧ ((m.getD 0 0).toNat / 4 % 4 = s.pins.nodeAddress.toNat →
      exec .messageCompletion s = .next (
        match k with
        | .sample => t.arrive c (m.getD 4 0) (m.getD 5 0 ++ m.getD 6 0 ++ m.getD 7 0)
        | .block =>
          (List.range (m.getD 5 0).toNat).foldl (fun u i =>
            u.arrive c (m.getD 4 0 + BitVec.ofNat 8 i)
              (m.getD (6 + 3 * i) 0 ++ m.getD (7 + 3 * i) 0 ++ m.getD (8 + 3 * i) 0)) t
        | .command =>
          if s.commands.length < 8 then
            { t with commands := s.commands ++
                [⟨m.getD 2 0, m.getD 3 0, (m.drop 4).take ((m.getD 1 0).toNat - 2)⟩] }
          else t.report .commandsLost 1 .cmdLost))

/-- The check sum starts at 0xFFFF and takes the bytes in order of reception, each from bit 7 to bit 0: a bit is
combined with bit 15 of the register, the register is shifted toward its more significant end, and where the result was
1 it is combined with 0x1021. Carried on over the two check-sum bytes of a good message it leaves 0; for 0x31 to 0x39 it
is 0x29B1 (R164). -/
def Obligations.CheckSumResidueIsZero : Prop :=
  let enter (reg : BitVec 16) (bit : Bool) : BitVec 16 :=
    if Bool.xor (reg.getLsbD 15) bit = true then (reg <<< 1) ^^^ 0x1021 else reg <<< 1
  crc [] = 0xFFFF
  ∧ (∀ (bs : List Byte) (b : Byte),
    crc (bs ++ [b]) = [7, 6, 5, 4, 3, 2, 1, 0].foldl (fun reg i => enter reg (b.getLsbD i)) (crc bs))
  ∧ crc [0x31, 0x32, 0x33, 0x34, 0x35, 0x36, 0x37, 0x38, 0x39] = 0x29B1
  ∧ ∀ bs : List Byte, crc (bs ++ [(crc bs).extractLsb' 8 8, (crc bs).extractLsb' 0 8]) = 0

/-! ### Arrivals (R72 to R78, R98 to R101) -/

/-- A sample for channel 0 or an UNDEFINED channel is an orphan (R101). On a defined channel the sequence check judges
it by the difference from the last sequence (R74), and each judgement is counted as R76 states, saturating; a
duplicate or late sample changes nothing else of the record. -/
def Obligations.SequenceCheckJudgesArrivals : Prop :=
  (∀ (k : BitVec 16) (n : Nat), (satAdd k n).toNat = if k.toNat + n ≤ 0xFFFF then k.toNat + n else 0xFFFF)
  ∧ ∀ (s : State) (c : Nat) (seq : Byte) (v : Sample),
    let ch := s.channel c
    (c = 0 ∨ ch.keeping = .undefined → s.arrive c seq v = s.report .orphanSamples 1 .orphan)
    ∧ (c ≠ 0 → ch.keeping ≠ .undefined →
      (ch.seqCheck = false ∨ ch.lastSeq = none → s.arrive c seq v = s.acceptSample c ch seq v)
      ∧ ∀ last : Byte, ch.seqCheck = true → ch.lastSeq = some last →
        let diff := (seq - last).toNat
        (diff = 0 → s.arrive c seq v =
          (s.setChannel c { ch with
            counters := { ch.counters with duplicate := satAdd ch.counters.duplicate 1 } }).report
            .seqFaults 1 .seqFault)
        ∧ (diff = 1 → s.arrive c seq v = s.acceptSample c ch seq v)
        ∧ (2 ≤ diff → diff ≤ 127 → s.arrive c seq v =
          (s.report .seqFaults 1 .seqFault).acceptSample c { ch with
            counters := { ch.counters with gapLost := satAdd ch.counters.gapLost (diff - 1) } } seq v)
        ∧ (128 ≤ diff → s.arrive c seq v =
          (s.setChannel c { ch with
            counters := { ch.counters with late := satAdd ch.counters.late 1 } }).report .seqFaults 1 .seqFault))

/-- An accepted sample on a LATEST channel: last sequence, RECEIVED, latest cell, age 0 and FRESH, with a CHANNEL_FRESH
notice when the channel was STALE and notify is on (R72, R78). -/
def Obligations.AcceptedLatestSampleIsKept : Prop :=
  ∀ (s : State) (c : Nat) (ch : Channel) (p : LatestPart) (seq : Byte) (v : Sample),
    ch.keeping = .latest p →
    let t := s.setChannel c { ch with
      keeping := .latest { p with freshness := .fresh, age := 0 }
      lastSeq := some seq
      latestCell := v
      counters := { ch.counters with received := satAdd ch.counters.received 1 } }
    (p.freshness = .stale → p.notify = true → s.acceptSample c ch seq v = t.notice 0x83 (bytesOf 2 c))
    ∧ (p.freshness ≠ .stale ∨ p.notify = false → s.acceptSample c ch seq v = t)

/-- The four cases of R98 for an accepted sample on a QUEUED channel, with the overflow counted in cases 2 to 4. -/
def Obligations.AcceptedQueuedSampleFollowsTheCases : Prop :=
  ∀ (s : State) (c : Nat) (ch : Channel) (p : QueuedPart) (seq : Byte) (v : Sample),
    ch.keeping = .queued p →
    let record (queue : List Sample) : Channel := { ch with
      keeping := .queued { p with queue := queue }
      lastSeq := some seq
      counters := { ch.counters with received := satAdd ch.counters.received 1 } }
    let overflow (queue : List Sample) : State :=
      (s.setChannel c { record queue with
        counters := { (record queue).counters with overflow := satAdd ch.counters.overflow 1 } }).report
        .overflowDrops 1 .sampleDrop
    (p.queue.length < p.limit ∧ 1 ≤ s.freeCells →
      s.acceptSample c ch seq v =
        { s.setChannel c (record (p.queue ++ [v])) with freeCells := s.freeCells - 1 })
    ∧ (¬ (p.queue.length < p.limit ∧ 1 ≤ s.freeCells) →
      (p.policy = .dropNew → s.acceptSample c ch seq v = overflow p.queue)
      ∧ (p.policy = .dropOld → ∀ oldest rest, p.queue = oldest :: rest →
        s.acceptSample c ch seq v = overflow (rest ++ [v]))
      ∧ (p.policy = .dropOld → p.queue = [] → s.acceptSample c ch seq v = overflow []))

/-- A notice is appended when a record place and its bytes are free after reservations; otherwise it is dropped,
counted in NOTICES_LOST and flagged (R131). A record is LEN, TAG, CODE, STATUS, payload and CHECK, and its bytes add up
to 0 mod 256 (R128). -/
def Obligations.NoticesNeedFreeSpace : Prop :=
  (∀ (tag code status : Byte) (payload : List Byte), payload.length ≤ 32 →
    ∃ check : Byte,
      replyRecord tag code status payload
        = [BitVec.ofNat 8 (5 + payload.length), tag, code, status] ++ payload ++ [check]
      ∧ (((replyRecord tag code status payload).map BitVec.toNat).sum) % 256 = 0)
  ∧ ∀ (s : State) (code : Byte) (payload : List Byte),
    let records := s.replies.records
    let reservations := s.replies.reservations
    let fits := records.length + reservations.length + 1 ≤ 16
      ∧ (records.map List.length).sum + (reservations.map Reservation.size).sum + (5 + payload.length) ≤ 512
    (fits → s.notice code payload = { s with
      replies := { s.replies with records := records ++ [replyRecord 0x00 code 0x80 payload] } })
    ∧ (¬ fits → s.notice code payload = s.report .noticesLost 1 .noticeLost)

/-! ### Building a frame -/

/-- The descriptor of a place: the boot template (R52), the bank's template, and for a ROTATE place the entry of its
list that the frame index draws (R28 step 2, R36). The boot geometry is W = 16, F = 16, C = 1, ratio 1/64 (R52). -/
def Obligations.DescriptorsComeFromTheFormatInForce : Prop :=
  ∀ s : State,
    (s.engine.inForce = .boot →
      s.geometry = ⟨16, 16, 1, 0, 1, 64⟩
      ∧ s.slotAt 0 = .const 0x5B1E ∧ s.slotAt 1 = .const 0xC6A7 ∧ s.slotAt 2 = .frameCount ∧ s.slotAt 3 = .health
      ∧ (∀ p, 4 ≤ p → p ≤ 13 → s.slotAt p = .reply) ∧ s.slotAt 14 = .time 0 16 ∧ s.slotAt 15 = .time 16 16)
    ∧ ∀ x : BankId, s.engine.inForce = .bank x →
      (∀ g, (s.bank x).geometry = some g → s.geometry = g)
      ∧ (∀ (p : Nat) (d : Slot), Table.get .empty (s.bank x).template p = d → (∀ l, d ≠ .rotate l) → s.slotAt p = d)
      ∧ ∀ (p l f : Nat) (list : List Slot), Table.get .empty (s.bank x).template p = .rotate l →
        Table.get [] (s.bank x).rotation l = list → s.engine.frameIndex = some f → list ≠ [] →
        list[f % list.length]? = some (s.slotAt p)

/-- A WORD_FETCH of a word that changes nothing but the output: CONST and FILL (R30), FRAME_INDEX and FRAME_COUNT
(R31), TIME (R32) and CHANNEL in mode HELD (R35, R42). `s.atWord` is the state after the frame start work of place 0,
or `s` at any other place. -/
def Obligations.WordsThatReadState : Prop :=
  ∀ s : State, s.FetchesNow →
    let u := s.atWord
    let d := u.slotAt s.engine.place
    (∀ v, d = .const v → exec .wordFetch s = .next (u.handedOver v.toNat))
    ∧ (d = .fill → exec .wordFetch s = .next (u.handedOver u.geometry.fill.toNat))
    ∧ (∀ f, d = .frameIndex → u.engine.frameIndex = some f → exec .wordFetch s = .next (u.handedOver f))
    ∧ (∀ n, d = .frameCount → u.engine.frameCount = some n → exec .wordFetch s = .next (u.handedOver n.toNat))
    ∧ (∀ shift width, d = .time shift width →
      ∃ x, (∀ i, x.testBit i = (decide (i < width) && u.timeBase.latch.getLsbD (shift + i)))
      ∧ exec .wordFetch s = .next (u.handedOver x))
    ∧ (∀ c signed shift width, d = .channel c .held signed shift width → 1 ≤ width → width ≤ u.geometry.width →
      let v := (u.channel c).holdCell
      ∃ x, (∀ i < u.geometry.width, x.testBit i =
          if i < width then v.getLsbD (shift + i) else signed && v.getLsbD (shift + width - 1))
      ∧ exec .wordFetch s = .next (u.handedOver x))

/-- A WORD_FETCH of a CHANNEL in mode CAPTURE: the value by freshness and stale policy on a LATEST channel, with
STALE_CAPTURE and the flag STALE outside FRESH (R39); the oldest queued sample with its cell returned, or the fill value
with the underrun counted and flagged, on a QUEUED channel (R40); written to the hold cell (R38) and placed as R35
states. -/
def Obligations.ChannelCaptureWords : Prop :=
  ∀ (s : State) (c shift width : Nat) (signed : Bool), s.FetchesNow →
    let u := s.atWord
    let ch := u.channel c
    u.slotAt s.engine.place = .channel c .capture signed shift width → 1 ≤ width → width ≤ u.geometry.width →
    let emits (t : State) (v : Sample) : Prop :=
      ∃ x, (∀ i < u.geometry.width, x.testBit i =
          if i < width then v.getLsbD (shift + i) else signed && v.getLsbD (shift + width - 1))
      ∧ exec .wordFetch s = .next (t.handedOver x)
    (∀ p, ch.keeping = .latest p → p.freshness = .fresh →
      emits (u.setChannel c { ch with holdCell := ch.latestCell }) ch.latestCell)
    ∧ (∀ p, ch.keeping = .latest p → p.freshness ≠ .fresh →
      let v := if p.policy = .hold then ch.latestCell else ch.fill
      emits ((u.setChannel c { ch with
        holdCell := v
        counters := { ch.counters with staleCapture := satAdd ch.counters.staleCapture 1 } }).setFlag .stale) v)
    ∧ (∀ p oldest rest, ch.keeping = .queued p → p.queue = oldest :: rest →
      emits { u.setChannel c { ch with holdCell := oldest, keeping := .queued { p with queue := rest } } with
        freeCells := u.freeCells + 1 } oldest)
    ∧ (∀ p, ch.keeping = .queued p → p.queue = [] →
      emits ((u.setChannel c { ch with
        holdCell := ch.fill
        counters := { ch.counters with underrun := satAdd ch.counters.underrun 1 } }).report
          .underruns 1 .underrun) ch.fill)

/-- A WORD_FETCH of a PACKED word: bit i is pick a + i, each captured channel is captured once, at its first CAPTURE
pick, and a later pick of it in the run reads the captured value (R37, R41). The premises on the run are what validation
has found (R21, R22). -/
def Obligations.PackedWordsCaptureEachChannelOnce : Prop :=
  ∀ (s : State) (a n : Nat), s.FetchesNow →
    let u := s.atWord
    let run := u.pickRun a n
    u.slotAt s.engine.place = .packed a n →
    (.unset ∉ run) → (∀ c b m, .channelBit c b m ∈ run → u.isUndefined c = false) →
    ∃ x, (∀ i, x.testBit i = (decide (i < n) && u.pickBit run i))
      ∧ exec .wordFetch s = .next (((firstCaptures [] run).foldl (fun t c => (t.capture c).1) u).handedOver x)

/-- A WORD_FETCH of HEALTH carries the latched flags, the live flags and the parity bit that makes the number of ones
odd (R136 to R138), then clears each latched flag below W and no other (R140). An event sets the flag at its position
of R136 and no other, whatever it was (R139), and an event that is counted raises its counter of R142 by the number
given, saturating, and no other; nothing else changes at either. -/
def Obligations.HealthWordCarriesAndClearsFlags : Prop :=
  (∀ (s : State) (f : LatchedFlag), ∃ flags : BitVec 16,
    (∀ i, flags.getLsbD i = (s.health.latched.getLsbD i || decide (i = match f with
      | .intakeErr => 0 | .cmdLost => 1 | .sampleDrop => 2 | .underrun => 3 | .stale => 4 | .seqFault => 5
      | .noticeLost => 6 | .orphan => 7 | .restarted => 12)))
    ∧ s.setFlag f = { s with health := { s.health with latched := flags } })
  ∧ (∀ (s : State) (c : DeviceCounter) (n : Nat) (f : LatchedFlag),
    let k := s.health.counters
    s.report c n f = { s with health := { s.health with counters := match c with
      | .framingErrors => { k with framingErrors := satAdd k.framingErrors n }
      | .lengthErrors => { k with lengthErrors := satAdd k.lengthErrors n }
      | .crcErrors => { k with crcErrors := satAdd k.crcErrors n }
      | .kindErrors => { k with kindErrors := satAdd k.kindErrors n }
      | .orphanSamples => { k with orphanSamples := satAdd k.orphanSamples n }
      | .commandsLost => { k with commandsLost := satAdd k.commandsLost n }
      | .noticesLost => { k with noticesLost := satAdd k.noticesLost n }
      | .switchesDone => { k with switchesDone := satAdd k.switchesDone n }
      | .validationFailures => { k with validationFailures := satAdd k.validationFailures n }
      | .overflowDrops => { k with overflowDrops := satAdd k.overflowDrops n }
      | .underruns => { k with underruns := satAdd k.underruns n }
      | .seqFaults => { k with seqFaults := satAdd k.seqFaults n } } }.setFlag f)
  ∧ ∀ s : State, s.FetchesNow →
    let u := s.atWord
    u.slotAt s.engine.place = .health →
    ∃ h left : BitVec 16,
      (∀ i, i ≤ 7 ∨ i = 12 → h.getLsbD i = u.health.latched.getLsbD i)
      ∧ h.getLsbD 8 = decide (u.engine.inForce ≠ .boot)
      ∧ h.getLsbD 9 = u.engine.pendingSwitch.isSome
      ∧ h.getLsbD 10 = decide (u.replies.records ≠ [])
      ∧ h.getLsbD 11 = decide (u.commands ≠ [])
      ∧ h.getLsbD 13 = decide (u.engine.inForce = .bank .b)
      ∧ h.getLsbD 14 = u.timeBase.load.isSome
      ∧ ((List.range 16).countP fun i => h.getLsbD i) % 2 = 1
      ∧ (∀ i, left.getLsbD i = (u.health.latched.getLsbD i && decide (u.geometry.width ≤ i)))
      ∧ exec .wordFetch s = .next ({ u with health := { u.health with latched := left } }.handedOver h.toNat)

/-- A WORD_FETCH of REPLY carries the idle unit from an empty queue, and otherwise the next byte of the head record with
VALID, and START at position 0; the head is removed at its last byte (R129). -/
def Obligations.ReplyWordCarriesTheNextByte : Prop :=
  ∀ s : State, s.FetchesNow →
    let u := s.atWord
    u.slotAt s.engine.place = .reply →
    (u.replies.records = [] → exec .wordFetch s = .next (u.handedOver 0))
    ∧ ∀ (head : List Byte) (rest : List (List Byte)) (byte : Byte),
      u.replies.records = head :: rest → head[u.replies.position]? = some byte →
      exec .wordFetch s = .next ({ u with replies :=
          if u.replies.position + 1 = head.length then { u.replies with records := rest, position := 0 }
          else { u.replies with position := u.replies.position + 1 } }.handedOver
        (byte.toNat + 0x100 + if u.replies.position = 0 then 0x200 else 0))

/-- The frame start work in the order of R46: frame index (R45), pending load and latch (R49, R121), frame count (R47),
freshness tick (R48), and at a cycle boundary the pending switch or stop; the first fetch after a reset takes the boot
ratio (R113). No other place has frame start work. -/
def Obligations.FrameStartWorkInOrder : Prop :=
  (∀ s : State, s.engine.place ≠ 0 → s.atWord = s)
  ∧ (∀ s : State, s.engine.pendingSwitch = none → s.carryOut = s)
  ∧ ∀ (s : State) (f : Nat), s.engine.place = 0 →
    (f = match s.engine.frameIndex with
      | none => 0
      | some k => if k + 1 < s.geometry.depth then k + 1 else 0) →
    let t := { s with
      engine := { s.engine with
        frameIndex := some f
        frameCount := some (match s.engine.frameCount with | none => 0 | some n => n + 1) }
      timeBase := match s.timeBase.load with
        | some v => { s.timeBase with counter := v, count := 0, load := none, latch := v }
        | none => { s.timeBase with latch := s.timeBase.counter }
      serial := if s.engine.frameIndex = none then { s.serial with ratioN := 1, ratioD := 64, accumulator := 0 }
        else s.serial }.tick
    (f = 0 → s.atWord = t.carryOut) ∧ (f ≠ 0 → s.atWord = t)

/-- The freshness tick ages every LATEST channel by 1 up to 255, makes STALE each FRESH one whose age then exceeds a
stale limit other than 0, and raises CHANNEL_STALE for those with notify on in ascending channel order; QUEUED and
UNDEFINED channels and all other state stay (R48, R79). -/
def Obligations.FreshnessTickAgesLatestChannels : Prop :=
  ∀ s : State, s.PoolInv → s.FreshnessInv →
    ∃ (raised : List Nat) (t : Table Channel),
      raised.Pairwise (· < ·)
      ∧ (∀ c, c ∈ raised ↔ ∃ p, (s.channel c).keeping = .latest p ∧ p.freshness = .fresh ∧ p.limit ≠ 0
          ∧ p.limit < p.age + 1 ∧ p.notify = true)
      ∧ Table.wf .blank t = true
      ∧ (∀ c, Table.get .blank t c =
          match (s.channel c).keeping with
          | .latest p =>
            { s.channel c with keeping := .latest { p with
                age := if p.age = 255 then 255 else p.age + 1
                freshness := if p.freshness = .fresh ∧ p.limit ≠ 0 ∧ p.limit < p.age + 1 then .stale
                  else p.freshness } }
          | .undefined | .queued _ => s.channel c)
      ∧ s.tick = raised.foldl (fun u c => u.notice 0x82 (bytesOf 2 c)) { s with channels := t }

/-- What step 6 of the frame start does with a pending switch to a bank (R60, R64) and with a pending stop (R63, R64).
The premises are the invariants claimed below; `n` is the count of the frame that begins. -/
def Obligations.SwitchAndStopAreCarriedOut : Prop :=
  ∀ (s : State) (tag : Byte) (n : BitVec 32),
    s.PoolInv → s.EngineInv → s.PinInv → s.ReplyInv → s.engine.frameCount = some n →
    let leaves (x : BankId) : BankState := if s.engine.inForce = .bank x then .editable else (s.bank x).state
    (∀ (x : BankId) (g : Geometry), s.engine.pendingSwitch = some ⟨.bank x, tag⟩ → (s.bank x).geometry = some g →
      ∃ t, Table.wf .blank t = true
        ∧ (∀ c, Table.get .blank t c =
            { s.channel c with activeRef := s.engine.pendingRefs.contains c, pendingRef := false })
        ∧ s.carryOut = { s with
            bankA := { s.bankA with state := if x = .a then .active else leaves .a }
            bankB := { s.bankB with state := if x = .b then .active else leaves .b }
            channels := t
            engine := { s.engine with
              inForce := .bank x, activeRefs := s.engine.pendingRefs, pendingRefs := [], pendingSwitch := none }
            serial := { s.serial with ratioN := g.ratioN, ratioD := g.ratioD, accumulator := 0 }
            replies := { s.replies with
              records := s.replies.records ++ [replyRecord tag 0x30 0x01 (bytesOf 4 n.toNat)]
              reservations := [] }
            health := { s.health with counters := { s.health.counters with
              switchesDone := satAdd s.health.counters.switchesDone 1 } } })
    ∧ (s.engine.pendingSwitch = some ⟨.boot, tag⟩ →
      ∃ t, Table.wf .blank t = true
        ∧ (∀ c, Table.get .blank t c = { s.channel c with activeRef := false, pendingRef := false })
        ∧ s.carryOut = { s with
            bankA := { s.bankA with state := leaves .a }
            bankB := { s.bankB with state := leaves .b }
            channels := t
            engine := { s.engine with inForce := .boot, activeRefs := [], pendingSwitch := none }
            serial := { s.serial with ratioN := 1, ratioD := 64, accumulator := 0 }
            replies := { s.replies with
              records := s.replies.records ++ [replyRecord tag 0x31 0x02 (bytesOf 4 n.toNat)]
              reservations := [] } })

/-! ### Strobes, pacer and time base -/

/-- BIT_STROBE shifts the next bit out, most significant first, with OFRM high (R110), and in MASTER mode drives OCLK
low (R111); with no bits remaining it is a word fetch (R110; log 6). A strobe occurs with RESETN released, in MASTER
mode where the pacer has made one (R111) and in FOLLOWER mode at each falling edge of OCLK (R114); where none occurs
BIT_STROBE and WORD_FETCH change nothing, and WORD_FETCH changes nothing within a word (log 1). -/
def Obligations.StrobesShiftWordsOut : Prop :=
  ∀ s : State,
    (s.strobeOccurs = true ↔ s.pins.resetn = .high ∧ (s.pins.linkMode = .follower ∨ s.serial.strobeDue = true))
    ∧ (s.strobeOccurs = true → ∀ (w : OutWord) (k : Nat), s.serial.word = some w → s.serial.remaining = k + 1 →
      exec .bitStrobe s = .next { s with
        serial := { s.serial with
          remaining := k
          odat := if w.bits.getLsbD k then .high else .low
          ofrm := .high
          strobeDue := false
          oclk := if s.pins.linkMode = .master then .low else s.serial.oclk }
        timeBase := s.timeBase.takeEdge }
      ∧ exec .wordFetch s = .next s)
    ∧ (s.FetchesNow → exec .bitStrobe s = exec .wordFetch s)
    ∧ (s.strobeOccurs = false → exec .bitStrobe s = .next s ∧ exec .wordFetch s = .next s)

/-- REFCLK_RISING_EDGE with nothing left of an earlier edge: in MASTER mode OCLK goes high and the pacer adds N, with a
strobe where the sum reaches D (R111); the prescaler count rises, or completes P and leaves the advance to
TIME_COUNTER_ADVANCE (R118); one period of validation passes (R16). Where the edge makes a strobe and its order puts the
strobe first, the count follows the strobe (R121, log 4). While RESETN is asserted nothing changes. The advance sets the
count to 0 and the counter to the next value mod 2^48; where no advance is due nothing changes (log 1). -/
def Obligations.ClockEdgesPaceAndCount : Prop :=
  (∀ (order : EdgeOrder) (s : State), s.pins.resetn = .low → exec (.refclkRisingEdge order) s = .next s)
  ∧ (∀ (order : EdgeOrder) (s : State), s.pins.resetn = .high → s.EdgeFinished →
    let sum := s.serial.accumulator + s.serial.ratioN.toNat
    let strobe := s.pins.linkMode = .master ∧ s.serial.ratioD.toNat ≤ sum
    exec (.refclkRisingEdge order) s = .next { s with
      serial := if s.pins.linkMode = .master then
          { s.serial with
            oclk := .high
            accumulator := if s.serial.ratioD.toNat ≤ sum then sum - s.serial.ratioD.toNat else sum
            strobeDue := decide (s.serial.ratioD.toNat ≤ sum) }
        else s.serial
      timeBase := if order = .strobeFirst ∧ strobe then { s.timeBase with edge := .afterStrobe }
        else if s.timeBase.count + 1 < s.timeBase.prescaler then { s.timeBase with count := s.timeBase.count + 1 }
        else { s.timeBase with edge := .advanceDue }
      validation := s.validation.map fun v =>
        { v with progress := s.nextProgress (s.bank v.bank) v.progress } })
  ∧ (∀ t : TimeBase, t.edge ≠ .taken → t.takeEdge =
      if t.count + 1 < t.prescaler then { t with count := t.count + 1, edge := .taken }
      else { t with edge := .advanceDue })
  ∧ ∀ s : State,
    (s.timeBase.edge = .advanceDue → exec .timeCounterAdvance s = .next { s with
      timeBase := { s.timeBase with counter := s.timeBase.counter + 1, count := 0, edge := .taken } })
    ∧ (s.timeBase.edge ≠ .advanceDue → exec .timeCounterAdvance s = .next s)

/-- A REFCLK_RISING_EDGE first finishes what earlier edges left: in MASTER mode validation completion, advance, strobe
and the advance that may follow it, in FOLLOWER mode, where REFCLK makes no strobe, completion and advance; each as its
own command does it (log 5). -/
def Obligations.ClockEdgeFinishesEarlierEdges : Prop :=
  ∀ s : State, s.pins.resetn = .high → s.TimeInv →
    s.finishEdge.EdgeFinished
    ∧ (∀ order, exec (.refclkRisingEdge order) s = exec (.refclkRisingEdge order) s.finishEdge)
    ∧ (∀ t₁ t₂ t₃ t₄, s.pins.linkMode = .master → exec .validationCompletion s = .next t₁ →
      exec .timeCounterAdvance t₁ = .next t₂ → exec .bitStrobe t₂ = .next t₃ →
      exec .timeCounterAdvance t₃ = .next t₄ → t₄ = s.finishEdge)
    ∧ ∀ t₁ t₂, s.pins.linkMode = .follower → s.PacerInv → exec .validationCompletion s = .next t₁ →
      exec .timeCounterAdvance t₁ = .next t₂ → t₂ = s.finishEdge

/-- Any D successive REFCLK edges make exactly N strobes and leave the accumulator as it was; two successive edges never
both make one; after a strobe the next comes after the floor or the ceiling of D/N edges (R111, R112). -/
def Obligations.PacerMakesNStrobesInDEdges : Prop :=
  ∀ z : Serializer,
    let n := z.ratioN.toNat
    let d := z.ratioD.toNat
    1 ≤ n → 2 * n ≤ d → z.accumulator < d →
    z.strobesIn d = n ∧ (z.paced d).accumulator = z.accumulator
    ∧ (z.strobesIn 2 ≤ 1)
    ∧ (z.accumulator < n → ∃ k, (k = d / n ∨ k = (d + n - 1) / n)
        ∧ z.strobesIn k = 1 ∧ ∀ j < k, z.strobesIn j = 0)

/-! ### Validation (R16 to R24, R58, R59) -/

/-- VALIDATION_COMPLETION with a finding: the bank is EDITABLE again, the SWITCH is answered INVALID_FORMAT with reason,
frame and place, and VALIDATION_FAILURES counts (R58; the reason codes of 11.5). With success: the bank is PENDING, its
channels are pinned, and the pending switch record and reference set are set, with no reply yet (R59). In both the
processor is FREE (R24). A validation that has not ended is not completed (log 1). -/
def Obligations.ValidationCompletionHandsOver : Prop :=
  (∀ reason : Reason, reason.code = match reason with
    | .noGeometry => 0x01 | .rate => 0x02 | .noReply => 0x03 | .narrowReply => 0x04 | .slotEmpty => 0x05
    | .rotationLength => 0x06 | .rotationEmpty => 0x07 | .constTooWide => 0x08 | .fieldTooWide => 0x09
    | .packTooWide => 0x0A | .pickUnset => 0x0B | .channelUndefined => 0x0C | .kindMismatch => 0x0D
    | .heldBeforeCapture => 0x0E)
  ∧ ∀ (s : State) (x : BankId) (tag : Byte),
    (∀ f : Finding, s.ReplyInv → s.validation = some ⟨x, tag, .found f⟩ →
      exec .validationCompletion s = .next { s.setBankState x .editable with
        validation := none
        replies := { s.replies with
          records := s.replies.records ++
            [replyRecord tag 0x30 0x18 ([f.reason.code, BitVec.ofNat 8 f.frame] ++ bytesOf 2 f.place)]
          reservations := [] }
        health := { s.health with counters := { s.health.counters with
          validationFailures := satAdd s.health.counters.validationFailures 1 } } })
    ∧ (∀ refs : List Nat, s.PoolInv → s.PinInv → s.validation = some ⟨x, tag, .passed refs⟩ →
      ∃ t, Table.wf .blank t = true
        ∧ (∀ c, Table.get .blank t c =
            { s.channel c with pendingRef := (s.channel c).pendingRef || refs.contains c })
        ∧ exec .validationCompletion s = .next { s.setBankState x .pending with
            validation := none
            channels := t
            engine := { s.engine with pendingSwitch := some ⟨.bank x, tag⟩, pendingRefs := refs } })
    ∧ (∀ v : Validation, s.validation = some v → v.progress.ended = false → exec .validationCompletion s = .next s)
    ∧ (s.validation = none → exec .validationCompletion s = .next s)

/-- Validation of a bank with a geometry ends within 4 + C × F REFCLK periods of its start, whatever the rest of the
part does from period to period, and that of a bank without one within 1 (R16). Step by step: `periodsLeft` is
4 + C × F at the start and 0 at the end alone; every REFCLK edge with RESETN released lowers it and keeps bank, tag and
geometry; no other command but a pin reset changes a validation that has not ended. -/
def Obligations.ValidationEndsInTime : Prop :=
  (∀ (s : State) (b : Bank), b.geometry = none → (s.nextProgress b (.test .geometry)).ended = true)
  ∧ (∀ (periods : List State) (b : Bank) (g : Geometry),
    b.geometry = some g → b.geometryOk = true → 4 + g.depth * g.length ≤ periods.length →
    (periods.foldl (fun (p : Progress) (s : State) => s.nextProgress b p) (.test .geometry)).ended = true)
  ∧ (∀ (b : Bank) (p : Progress), p.periodsLeft b = 0 ↔ p.ended = true)
  ∧ (∀ (b : Bank) (g : Geometry), b.geometry = some g →
    (Progress.test .geometry).periodsLeft b = 4 + g.depth * g.length)
  ∧ (∀ (order : EdgeOrder) (s : State) (v : Validation),
    s.pins.resetn = .high → s.validation = some v → v.progress.ended = false → (s.bank v.bank).geometryOk = true →
    ∃ (t : State) (p : Progress), exec (.refclkRisingEdge order) s = .next t
      ∧ t.validation = some { v with progress := p }
      ∧ (t.bank v.bank).geometry = (s.bank v.bank).geometry
      ∧ p.periodsLeft (t.bank v.bank) < v.progress.periodsLeft (s.bank v.bank))
  ∧ ∀ (i : Instr) (s t : State) (v : Validation), (∀ lmode, i ≠ .pinResetAssert lmode) →
    (∀ order, i ≠ .refclkRisingEdge order) → s.validation = some v → v.progress.ended = false →
    exec i s = .next t → t.validation = some v

/-- The four whole-format tests in their order, one in each period: NO_GEOMETRY, RATE (MASTER mode alone), NO_REPLY and
NARROW_REPLY at the lowest REPLY place below F (R16, R17). -/
def Obligations.WholeFormatTestsInOrder : Prop :=
  ∀ (s : State) (b : Bank),
    (b.geometry = none → s.nextProgress b (.test .geometry) = .found ⟨.noGeometry, 0, 0⟩)
    ∧ ∀ g : Geometry, b.geometry = some g → Table.wf .empty b.template = true →
      let rate := s.pins.linkMode = .master ∧ (g.ratioN.toNat = 0 ∨ g.ratioD.toNat < 2 * g.ratioN.toNat)
      let replyAt (p : Nat) : Prop := p < g.length ∧ Table.get .empty b.template p = .reply
      s.nextProgress b (.test .geometry) = .test .rate
      ∧ (rate → s.nextProgress b (.test .rate) = .found ⟨.rate, 0, 0⟩)
      ∧ (¬ rate → s.nextProgress b (.test .rate) = .test .reply)
      ∧ ((∀ p, ¬ replyAt p) → s.nextProgress b (.test .reply) = .found ⟨.noReply, 0, 0⟩)
      ∧ ((∃ p, replyAt p) → s.nextProgress b (.test .reply) = .test .narrow)
      ∧ (∀ p, replyAt p → (∀ q < p, ¬ replyAt q) → g.width < 10 →
        s.nextProgress b (.test .narrow) = .found ⟨.narrowReply, 0, p⟩)
      ∧ (10 ≤ g.width → s.nextProgress b (.test .narrow) = .examine 0 0 [] [])

/-- The examination of one place in one period: a failed check ends the validation with its reason, frame and place;
otherwise the next place follows, then the next frame with nothing captured, then success (R18). EMPTY and ROTATE
places (R19, R20), CONST, TIME and CHANNEL (R19, R22, R23) and the kinds that pass every check (R18). -/
def Obligations.PlacesAreExaminedInOrder : Prop :=
  ∀ (s : State) (b : Bank) (g : Geometry) (f p : Nat) (seen : Seen),
    let place := s.examinePlace b g f p seen
    let at' (d : Slot) := s.examineSlot b g seen d
    (b.geometry = some g →
      let next := s.nextProgress b (.examine f p seen.captured seen.refs)
      (∀ reason, place = .error reason → next = .found ⟨reason, f, p⟩)
      ∧ ∀ seen', place = .ok seen' →
        (p + 1 < g.length → next = .examine f (p + 1) seen'.captured seen'.refs)
        ∧ (g.length ≤ p + 1 → f + 1 < g.depth → next = .examine (f + 1) 0 [] seen'.refs)
        ∧ (g.length ≤ p + 1 → g.depth ≤ f + 1 → next = .passed seen'.refs))
    ∧ (∀ d, Table.get .empty b.template p = d →
      (d = .empty → place = .error .slotEmpty)
      ∧ (d ≠ .empty → (∀ l, d ≠ .rotate l) → place = at' d)
      ∧ ∀ l list, d = .rotate l → Table.get [] b.rotation l = list →
        (list = [] ∨ ¬ list.length ∣ g.depth → place = .error .rotationLength)
        ∧ (list.length ∣ g.depth → ∀ entry, list[f % list.length]? = some entry →
          (entry = .empty → place = .error .rotationEmpty) ∧ (entry ≠ .empty → place = at' entry)))
    ∧ (∀ v, at' (.const v) = if v.toNat < 2 ^ g.width then .ok seen else .error .constTooWide)
    ∧ (∀ shift w, at' (.time shift w) = if w ≤ g.width then .ok seen else .error .fieldTooWide)
    ∧ (∀ c m signed shift w, at' (.channel c m signed shift w) =
        if g.width < w then .error .fieldTooWide
        else if (s.channel c).keeping = .undefined then .error .channelUndefined
        else if m = .capture then .ok ⟨insertChannel c seen.captured, insertChannel c seen.refs⟩
        else if c ∈ seen.captured then .ok ⟨seen.captured, insertChannel c seen.refs⟩
        else .error .heldBeforeCapture)
    ∧ (at' .fill = .ok seen ∧ at' .frameIndex = .ok seen ∧ at' .frameCount = .ok seen ∧ at' .health = .ok seen
      ∧ at' .reply = .ok seen)
    ∧ ∀ c k ks, k ∈ insertChannel c ks ↔ k = c ∨ k ∈ ks

/-- The checks of a PACKED descriptor, each over the whole run before the next: PACK_TOO_WIDE, PICK_UNSET,
CHANNEL_UNDEFINED, KIND_MISMATCH, HELD_BEFORE_CAPTURE with the lower picks of the run counted as captures; a run that
passes adds its captures and its references (R18, R21, R22, R23). -/
def Obligations.PackedRunsAreExaminedInOrder : Prop :=
  ∀ (s : State) (b : Bank) (g : Geometry) (seen : Seen) (a n : Nat),
    let run := Table.run .unset b.picks a n
    let result := s.examineSlot b g seen (.packed a n)
    let undefined := ∃ c bit m, Pick.channelBit c bit m ∈ run ∧ (s.channel c).keeping = .undefined
    let mismatch := ∃ c bit q, Pick.channelBit c bit .capture ∈ run ∧ (s.channel c).keeping = .queued q
    let heldAfter := ∀ (i c bit : Nat), run[i]? = some (Pick.channelBit c bit .held) →
      c ∈ seen.captured ∨ ∃ j, j < i ∧ ∃ bit' : Nat, run[j]? = some (Pick.channelBit c bit' .capture)
    (g.width < n → result = .error .packTooWide)
    ∧ (n ≤ g.width → Pick.unset ∈ run → result = .error .pickUnset)
    ∧ (n ≤ g.width → Pick.unset ∉ run → undefined → result = .error .channelUndefined)
    ∧ (n ≤ g.width → Pick.unset ∉ run → ¬ undefined → mismatch → result = .error .kindMismatch)
    ∧ (n ≤ g.width → Pick.unset ∉ run → ¬ undefined → ¬ mismatch → ¬ heldAfter → result = .error .heldBeforeCapture)
    ∧ (n ≤ g.width → Pick.unset ∉ run → ¬ undefined → ¬ mismatch → heldAfter →
      ∃ seen', result = .ok seen'
        ∧ (∀ c, c ∈ seen'.captured ↔ c ∈ seen.captured ∨ ∃ bit, Pick.channelBit c bit .capture ∈ run)
        ∧ (∀ c, c ∈ seen'.refs ↔ c ∈ seen.refs ∨ ∃ bit m, Pick.channelBit c bit m ∈ run))

/-! ### Takes (R147 to R155) -/

/-- The oldest record can be taken when the processor is FREE and the reply queue has a free place and its maximum
reply size of free bytes; a well-formed RESET_PART needs the first alone; none while RESETN is asserted (R150, R160).
A take that is not due, or that is of another command's record, changes nothing (log 1). -/
def Obligations.TakesWaitForTheirConditions : Prop :=
  (∀ (s : State) (r : CmdRecord),
    let size := match r.code.toNat with
      | 0x01 => 13 | 0x12 => 32 | 0x25 => 37 | 0x30 => 9 | 0x31 => 9 | 0x50 => 29 | _ => 5
    s.takeable = some r ↔
      s.pins.resetn = .high ∧ s.validation = none ∧ (∃ rest, s.commands = r :: rest)
      ∧ ((r.code = 0x02 ∧ (r.args = [0x01] ∨ r.args = [0x02]))
        ∨ (s.replies.records.length + s.replies.reservations.length + 1 ≤ 16
          ∧ (s.replies.records.map List.length).sum + (s.replies.reservations.map Reservation.size).sum + size
            ≤ 512)))
  ∧ (∀ (s : State) (c : Command) (i : Instr), c.row = some i →
    (s.takeable = none ∨ ∃ r, s.takeable = some r ∧ r.code ≠ c.code) → exec i s = .next s)
  ∧ (∀ (s : State) (i : Instr),
    i = .resetPartRestart ∨ i = .resetPartFull ∨ i = .resetPartRefused ∨ i = .unknownCommand →
    s.takeable = none → exec i s = .next s)
  ∧ ∀ (s : State) (r : CmdRecord), s.takeable = some r →
    (r.code ≠ 0x02 ∨ r.args ≠ [0x01] → exec .resetPartRestart s = .next s)
    ∧ (r.code ≠ 0x02 ∨ r.args ≠ [0x02] → exec .resetPartFull s = .next s)
    ∧ (r.code ≠ 0x02 ∨ r.args = [0x01] ∨ r.args = [0x02] → exec .resetPartRefused s = .next s)
    ∧ ((∃ c : Command, r.code = c.code) → exec .unknownCommand s = .next s)

/-- The codes of 11.3 and the argument lengths of R153, row by row. A record of a wrong argument length is answered
BAD_LENGTH, one of an unknown code UNKNOWN_COMMAND, and a RESET_PART of one unknown option BAD_ARGUMENT; each changes
the two queues alone, and no reset is made (R151, R155). -/
def Obligations.RefusalsAtTheTakeChangeNothing : Prop :=
  (∀ c : Command, c.code = match c with
    | .ping => 0x01 | .resetPart => 0x02
    | .defineChannel => 0x10 | .undefineChannel => 0x11 | .readChannel => 0x12
    | .setFrame => 0x20 | .writeSlots => 0x21 | .writeRotation => 0x22 | .writePicks => 0x23
    | .clearBank => 0x24 | .readBank => 0x25
    | .switch => 0x30 | .stop => 0x31
    | .setTimebase => 0x40 | .setTime => 0x41
    | .readCounters => 0x50 | .clearCounters => 0x51)
  ∧ (∀ (c : Command) (n : Nat), c.accepts n = true ↔ match c with
    | .ping | .stop => n = 0
    | .resetPart | .clearBank | .switch | .readCounters => n = 1
    | .undefineChannel | .readChannel | .setTimebase => n = 2
    | .clearCounters => n = 3
    | .readBank => n = 4
    | .setTime => n = 6
    | .defineChannel => n = 9
    | .setFrame => n = 13
    | .writeSlots => ∃ k, 1 ≤ k ∧ k ≤ 9 ∧ n = 3 + 6 * k
    | .writeRotation => ∃ k, k ≤ 8 ∧ n = 4 + 6 * k
    | .writePicks => ∃ k, 1 ≤ k ∧ k ≤ 16 ∧ n = 3 + 3 * k)
  ∧ ∀ (s : State) (r : CmdRecord), s.ReplyInv → s.takeable = some r →
    (∀ (c : Command) (i : Instr), c.row = some i → r.code = c.code → c.accepts r.args.length = false →
      exec i s = .next (s.answered r 0x11 []))
    ∧ ((∀ c : Command, r.code ≠ c.code) → exec .unknownCommand s = .next (s.answered r 0x12 []))
    ∧ (r.code = 0x02 → r.args.length ≠ 1 → exec .resetPartRefused s = .next (s.answered r 0x11 []))
    ∧ (∀ option : Byte, r.code = 0x02 → r.args = [option] → option ≠ 0x01 → option ≠ 0x02 →
      exec .resetPartRefused s = .next (s.answered r 0x10 []))

/-- PING replies OK with part code, revision, the state byte and the frame count, 0 when it is absent, and changes
nothing else (R154, 11.5). -/
def Obligations.PingIdentifiesThePart : Prop :=
  ∀ (s : State) (r : CmdRecord), s.ReplyInv → s.takeable = some r → r.code = 0x01 → r.args = [] →
    ∃ state : Byte,
      state.extractLsb' 0 2 = s.pins.nodeAddress
      ∧ state.getLsbD 2 = decide (s.pins.linkMode = .master)
      ∧ state.getLsbD 3 = decide (s.engine.inForce ≠ .boot)
      ∧ state.getLsbD 4 = s.engine.pendingSwitch.isSome
      ∧ state.getLsbD 5 = false ∧ state.getLsbD 6 = false ∧ state.getLsbD 7 = false
      ∧ exec .ping s = .next (s.answered r 0x00
          ([0x72, 0x08, 0x12, state] ++ bytesOf 4 (s.engine.frameCount.elim 0 BitVec.toNat)))

/-! ### Resets by command (R155 to R159) -/

/-- RESET_PART RESTART: the queues of commands and replies, the engine and the pending load are reset, banks become
EDITABLE with their contents kept, channels keep definition and counters and start anew, every cell is free, RESTARTED
alone is set with the device counters kept, and READY with cause RESTART is the only record (R158, R91, R108, R157).
The output link, the prescaler and the time counter run on. -/
def Obligations.RestartKeepsDefinitionsAndContents : Prop :=
  ∀ (s : State) (r : CmdRecord), s.PoolInv → s.takeable = some r → r.code = 0x02 → r.args = [0x01] →
    ∃ t, Table.wf .blank t = true
      ∧ (∀ c, Table.get .blank t c =
          let ch := s.channel c
          let fresh (k : Keeping) : Channel :=
            { ch with
              keeping := k, lastSeq := none, latestCell := ch.fill, holdCell := ch.fill
              activeRef := false, pendingRef := false }
          match ch.keeping with
          | .undefined => ch
          | .latest p => fresh (.latest { p with freshness := .never, age := 255 })
          | .queued p => fresh (.queued { p with queue := [] }))
      ∧ exec .resetPartRestart s = .next { s with
          commands := []
          validation := none
          engine := ⟨.boot, 0, none, none, none, [], []⟩
          bankA := { s.bankA with state := .editable }
          bankB := { s.bankB with state := .editable }
          channels := t
          freeCells := 2048
          timeBase := { s.timeBase with load := none }
          health := { s.health with latched := 0x1000 }
          replies := ⟨[replyRecord 0x00 0x81 0x80 [0x02, 0x72, 0x08, 0x12, s.pins.nodeAddress.setWidth 8,
            if s.pins.linkMode = .master then 0x01 else 0x00]], 0, []⟩ }

/-- RESET_PART FULL: as a pin reset, but for the intake interface, the pins and straps, the word in progress with its
ratio, and the latch, which stay; READY with cause FULL is the only record (R159, R157). That an edge's owed count is
dropped with the prescaler is the model's choice (log 17). -/
def Obligations.FullResetClearsAllButTheLinks : Prop :=
  ∀ (s : State) (r : CmdRecord), s.takeable = some r → r.code = 0x02 → r.args = [0x02] →
    exec .resetPartFull s = .next { s with
      commands := []
      validation := none
      engine := ⟨.boot, 0, none, none, none, [], []⟩
      bankA := ⟨none, [], [], [], .editable⟩
      bankB := ⟨none, [], [], [], .editable⟩
      channels := []
      freeCells := 2048
      timeBase := { counter := 0, prescaler := 1, count := 0, load := none, latch := s.timeBase.latch, edge := .taken }
      health := ⟨0x1000, ⟨0, 0, 0, 0, 0, 0, 0, 0, 0, 0, 0, 0⟩⟩
      replies := ⟨[replyRecord 0x00 0x81 0x80 [0x03, 0x72, 0x08, 0x12, s.pins.nodeAddress.setWidth 8,
        if s.pins.linkMode = .master then 0x01 else 0x00]], 0, []⟩ }

/-! ### Channel commands (R84 to R89) -/

/-- DEFINE_CHANNEL of an UNDEFINED channel writes a new record with counters 0, last sequence absent, both cells at the
fill value and no pin flag (R85); of a channel of the other kind it does the same after flushing its queue uncounted
(R87), or is refused with IN_USE where a pin flag is set (R83, R84). A channel, kind, limit or policy out of range is
refused with BAD_ARGUMENT (R69, R84), and a refusal changes the two queues alone. -/
def Obligations.DefineChannelWritesANewRecord : Prop :=
  ∀ (s : State) (r : CmdRecord) (c : Nat) (kind limit policy options : Byte) (fill : Sample),
    s.ReplyInv → s.takeable = some r → r.code = 0x10 → c < 65536 →
    r.args = defineArgs c kind limit policy fill options →
    let ch := s.channel c
    let record (k : Keeping) : Channel :=
      { keeping := k, fill := fill, seqCheck := options.getLsbD 0, lastSeq := none, latestCell := fill
        holdCell := fill, activeRef := false, pendingRef := false, counters := ⟨0, 0, 0, 0, 0, 0, 0⟩ }
    let newLatest := Keeping.latest
      ⟨.never, 255, limit.toNat, if policy = 0x00 then .hold else .fill, options.getLsbD 1⟩
    let newQueued := Keeping.queued ⟨limit.toNat, if policy = 0x00 then .dropNew else .dropOld, []⟩
    let inRange := 1 ≤ c ∧ c ≤ 1023
    let goodLatest := kind = 0x01 ∧ limit.toNat ≤ 254 ∧ (policy = 0x00 ∨ policy = 0x01)
    let goodQueued := kind = 0x02 ∧ 1 ≤ limit.toNat ∧ (policy = 0x00 ∨ policy = 0x01)
    (¬ inRange ∨ ¬ (goodLatest ∨ goodQueued) → exec .defineChannel s = .next (s.answered r 0x10 []))
    ∧ (inRange → ch.keeping = .undefined →
      (goodLatest → exec .defineChannel s = .next ((s.answered r 0x00 []).setChannel c (record newLatest)))
      ∧ (goodQueued → exec .defineChannel s = .next ((s.answered r 0x00 []).setChannel c (record newQueued))))
    ∧ (inRange → ∀ p, ch.keeping = .queued p → goodLatest →
      (ch.activeRef = true ∨ ch.pendingRef = true → exec .defineChannel s = .next (s.answered r 0x16 []))
      ∧ (ch.activeRef = false → ch.pendingRef = false → exec .defineChannel s = .next
        { (s.answered r 0x00 []).setChannel c (record newLatest) with
          freeCells := s.freeCells + p.queue.length }))
    ∧ (inRange → ∀ p, ch.keeping = .latest p → goodQueued →
      (ch.activeRef = true ∨ ch.pendingRef = true → exec .defineChannel s = .next (s.answered r 0x16 []))
      ∧ (ch.activeRef = false → ch.pendingRef = false →
        exec .defineChannel s = .next ((s.answered r 0x00 []).setChannel c (record newQueued))))

/-- A same-kind DEFINE_CHANNEL, pinned or not, replaces limit, policy, fill value and options and keeps the rest (R86):
in NEVER the latest cell takes the new fill value, and a queue longer than the new limit is trimmed from its oldest end,
with its cells returned and each lost sample counted and flagged (R104). -/
def Obligations.RedefinitionKeepsTheRecord : Prop :=
  ∀ (s : State) (r : CmdRecord) (c : Nat) (kind limit policy options : Byte) (fill : Sample),
    s.ReplyInv → s.takeable = some r → r.code = 0x10 → 1 ≤ c → c ≤ 1023 →
    r.args = defineArgs c kind limit policy fill options → policy = 0x00 ∨ policy = 0x01 →
    let ch := s.channel c
    (∀ p, ch.keeping = .latest p → kind = 0x01 → limit.toNat ≤ 254 →
      exec .defineChannel s = .next ((s.answered r 0x00 []).setChannel c { ch with
        keeping := .latest { p with
          limit := limit.toNat
          policy := if policy = 0x00 then .hold else .fill
          notify := options.getLsbD 1 }
        fill := fill
        seqCheck := options.getLsbD 0
        latestCell := if p.freshness = .never then fill else ch.latestCell }))
    ∧ (∀ p, ch.keeping = .queued p → kind = 0x02 → 1 ≤ limit.toNat →
      let record (queue : List Sample) (overflow : BitVec 16) : Channel := { ch with
        keeping := .queued ⟨limit.toNat, if policy = 0x00 then .dropNew else .dropOld, queue⟩
        fill := fill
        seqCheck := options.getLsbD 0
        counters := { ch.counters with overflow := overflow } }
      (p.queue.length ≤ limit.toNat →
        exec .defineChannel s = .next
          ((s.answered r 0x00 []).setChannel c (record p.queue ch.counters.overflow)))
      ∧ (∀ lost kept, p.queue = lost ++ kept → lost ≠ [] → kept.length = limit.toNat →
        exec .defineChannel s = .next
          ({ (s.answered r 0x00 []).setChannel c (record kept (satAdd ch.counters.overflow lost.length)) with
            freeCells := s.freeCells + lost.length }.report .overflowDrops lost.length .sampleDrop)))

/-- UNDEFINE_CHANNEL flushes the queue uncounted and makes the record UNDEFINED with every field cleared; it is refused
with BAD_ARGUMENT, NOT_DEFINED or IN_USE in the order of R88. READ_CHANNEL reports the record in 27 bytes and changes
nothing; it is refused with BAD_ARGUMENT or NOT_DEFINED in the order of R89 (11.5). -/
def Obligations.UndefineAndReadChannel : Prop :=
  ∀ (s : State) (r : CmdRecord) (c : Nat), s.ReplyInv → s.takeable = some r → c < 65536 → r.args = bytesOf 2 c →
    let ch := s.channel c
    (r.code = 0x11 → exec .undefineChannel s = .next (
      if c = 0 ∨ 1023 < c then s.answered r 0x10 []
      else if ch.keeping = .undefined then s.answered r 0x17 []
      else if ch.activeRef = true ∨ ch.pendingRef = true then s.answered r 0x16 []
      else { (s.answered r 0x00 []).setChannel c
          { keeping := .undefined, fill := 0, seqCheck := false, lastSeq := none, latestCell := 0, holdCell := 0
            activeRef := false, pendingRef := false, counters := ⟨0, 0, 0, 0, 0, 0, 0⟩ } with
        freeCells := s.freeCells + ch.queue.length }))
    ∧ (r.code = 0x12 →
      (c = 0 ∨ 1023 < c → exec .readChannel s = .next (s.answered r 0x10 []))
      ∧ (1 ≤ c → c ≤ 1023 → ch.keeping = .undefined → exec .readChannel s = .next (s.answered r 0x17 []))
      ∧ (1 ≤ c → c ≤ 1023 → ch.keeping ≠ .undefined → ∃ (state limit age : Byte),
        (state.getLsbD 3 = ch.seqCheck ∧ state.getLsbD 5 = ch.lastSeq.isSome
          ∧ state.getLsbD 6 = ch.activeRef ∧ state.getLsbD 7 = ch.pendingRef)
        ∧ (match ch.keeping with
          | .undefined => True
          | .latest p =>
            state.extractLsb' 0 2 = (match p.freshness with | .never => 0 | .fresh => 1 | .stale => 2)
            ∧ state.getLsbD 2 = decide (p.policy = .fill) ∧ state.getLsbD 4 = p.notify
            ∧ limit = BitVec.ofNat 8 p.limit ∧ age = BitVec.ofNat 8 p.age
          | .queued p =>
            state.extractLsb' 0 2 = 3 ∧ state.getLsbD 2 = decide (p.policy = .dropOld) ∧ state.getLsbD 4 = false
            ∧ limit = BitVec.ofNat 8 p.limit ∧ age = BitVec.ofNat 8 p.queue.length)
        ∧ exec .readChannel s = .next (s.answered r 0x00
          ([state, limit, age, ch.lastSeq.getD 0] ++ bytesOf 3 ch.fill.toNat ++ bytesOf 3 ch.latestCell.toNat
            ++ bytesOf 3 ch.holdCell.toNat ++ bytesOf 2 ch.counters.received.toNat
            ++ bytesOf 2 ch.counters.overflow.toNat ++ bytesOf 2 ch.counters.gapLost.toNat
            ++ bytesOf 2 ch.counters.duplicate.toNat ++ bytesOf 2 ch.counters.late.toNat
            ++ bytesOf 2 ch.counters.underrun.toNat ++ bytesOf 2 ch.counters.staleCapture.toNat))))

/-! ### Bank commands (R1 to R15) -/

/-- An edit that names no bank is refused with BAD_ARGUMENT, and one of a PENDING or ACTIVE bank with BANK_PENDING or
BANK_ACTIVE, before any other argument is examined; a refused edit changes the two queues alone (R1, R13). -/
def Obligations.EditsOfProtectedBanksAreRefused : Prop :=
  ∀ (s : State) (r : CmdRecord) (c : Command) (i : Instr) (selector : Byte) (rest : List Byte),
    s.ReplyInv → s.takeable = some r → r.code = c.code → c.accepts r.args.length = true →
    r.args = selector :: rest →
    (c, i) ∈ [(Command.setFrame, Instr.setFrame), (.writeSlots, .writeSlots), (.writeRotation, .writeRotation),
      (.writePicks, .writePicks), (.clearBank, .clearBank)] →
    (2 ≤ selector.toNat → exec i s = .next (s.answered r 0x10 []))
    ∧ ∀ x : BankId, selector = x.selector →
      ((s.bank x).state = .pending → exec i s = .next (s.answered r 0x14 []))
      ∧ ((s.bank x).state = .active → exec i s = .next (s.answered r 0x13 []))

/-- SET_FRAME of an EDITABLE bank replaces its geometry as a whole and nothing else when W, F and C are in the ranges of
R2, and is refused with BAD_ARGUMENT otherwise (R3). -/
def Obligations.SetFrameReplacesTheGeometry : Prop :=
  ∀ (s : State) (r : CmdRecord) (x : BankId) (w : Byte) (f c fill n : BitVec 16) (d : BitVec 24),
    s.ReplyInv → s.takeable = some r → r.code = 0x20 →
    r.args = [x.selector, w] ++ bytesOf 2 f.toNat ++ bytesOf 2 c.toNat ++ bytesOf 2 fill.toNat
      ++ bytesOf 2 n.toNat ++ bytesOf 3 d.toNat →
    (s.bank x).state = .editable →
    exec .setFrame s = .next (
      if 8 ≤ w.toNat ∧ w.toNat ≤ 16 ∧ 4 ≤ f.toNat ∧ f.toNat ≤ 512 ∧ 1 ≤ c.toNat ∧ c.toNat ≤ 256 then
        (s.answered r 0x00 []).setBank x { s.bank x with
          geometry := some ⟨w.toNat, f.toNat, c.toNat, fill, n, d⟩ }
      else s.answered r 0x10 [])

/-- WRITE_SLOTS of an EDITABLE bank writes its 1 to 9 descriptors at the places from the first on and nothing else; the
positions that a kind does not use may hold any bytes and are not stored. An unknown kind, a descriptor that fails the
write-time check, or a place above 511 refuses the whole with BAD_ARGUMENT (R4 to R7, R173). -/
def Obligations.WriteSlotsWritesTheTemplate : Prop :=
  (∀ d : Slot, d.accepted = true ↔ match d with
    | .empty | .const _ | .fill | .frameIndex | .frameCount | .health | .reply => True
    | .time shift width => shift ≤ 47 ∧ 1 ≤ width ∧ width ≤ 16 ∧ shift + width ≤ 48
    | .channel c _ _ shift width =>
      1 ≤ c ∧ c ≤ 1023 ∧ shift ≤ 23 ∧ 1 ≤ width ∧ width ≤ 16 ∧ shift + width ≤ 24
    | .packed a n => a ≤ 511 ∧ 1 ≤ n ∧ n ≤ 16 ∧ a + n ≤ 512
    | .rotate l => l ≤ 31)
  ∧ ∀ (s : State) (r : CmdRecord) (x : BankId) (first : BitVec 16) (groups : List (List Byte)),
    s.ReplyInv → s.takeable = some r → r.code = 0x21 → (s.bank x).state = .editable →
    r.args = [x.selector] ++ bytesOf 2 first.toNat ++ groups.flatten →
    1 ≤ groups.length → groups.length ≤ 9 → (∀ g ∈ groups, g.length = 6) →
    let q := first.toNat
    (∀ ds : List Slot, groups.map decodeSlot = ds.map some → (∀ d ∈ ds, d.accepted = true) →
      q + ds.length ≤ 512 → Table.wf .empty (s.bank x).template = true →
      ∃ t, Table.wf .empty t = true
        ∧ (∀ p, Table.get .empty t p =
            if p < q then Table.get .empty (s.bank x).template p
            else ds.getD (p - q) (Table.get .empty (s.bank x).template p))
        ∧ exec .writeSlots s = .next ((s.answered r 0x00 []).setBank x { s.bank x with template := t }))
    ∧ (512 < q + groups.length → exec .writeSlots s = .next (s.answered r 0x10 []))
    ∧ ((∃ g ∈ groups, ∀ d, decodeSlot g = some d → d.accepted = false) →
      exec .writeSlots s = .next (s.answered r 0x10 []))

/-- WRITE_ROTATION of an EDITABLE bank brings list l to the new length with EMPTY in new entries, then writes its 0 to 8
entries from the first on, and changes nothing else; the positions that a kind does not use may hold any bytes and are
not stored. A list above 31, a length above 64, an entry at or beyond the new length, an unknown kind, a kind that no
list holds, or an entry that fails the write-time check refuses the whole with BAD_ARGUMENT (R8, R9, R173). -/
def Obligations.WriteRotationWritesOneList : Prop :=
  ∀ (s : State) (r : CmdRecord) (x : BankId) (l len e : Byte) (groups : List (List Byte)),
    s.ReplyInv → s.takeable = some r → r.code = 0x22 → (s.bank x).state = .editable →
    r.args = [x.selector, l, len, e] ++ groups.flatten → groups.length ≤ 8 → (∀ g ∈ groups, g.length = 6) →
    let old := Table.get [] (s.bank x).rotation l.toNat
    let inRange := l.toNat ≤ 31 ∧ len.toNat ≤ 64 ∧ (groups = [] ∨ e.toNat + groups.length ≤ len.toNat)
    let good (d : Slot) : Prop :=
      d.accepted = true ∧ (∀ m, d ≠ .rotate m) ∧ d ≠ .reply ∧ d ≠ .health ∧ d ≠ .frameIndex
    (∀ ds : List Slot, groups.map decodeSlot = ds.map some → (∀ d ∈ ds, good d) → inRange →
      Table.wf [] (s.bank x).rotation = true →
      ∃ t, Table.wf [] t = true
        ∧ (∀ m, Table.get [] t m =
            if m = l.toNat then
              (List.range len.toNat).map fun i =>
                if i < e.toNat then old.getD i .empty else ds.getD (i - e.toNat) (old.getD i .empty)
            else Table.get [] (s.bank x).rotation m)
        ∧ exec .writeRotation s = .next ((s.answered r 0x00 []).setBank x { s.bank x with rotation := t }))
    ∧ (¬ inRange → exec .writeRotation s = .next (s.answered r 0x10 []))
    ∧ ((∃ g ∈ groups, ∀ d, decodeSlot g = some d → ¬ good d) →
      exec .writeRotation s = .next (s.answered r 0x10 []))

/-- WRITE_PICKS of an EDITABLE bank writes its 1 to 16 picks from the first on and nothing else; the positions that a
type does not use may hold any bits and are not stored. A bit number from 24 up, a channel out of range, or a pick above
511 refuses the whole with BAD_ARGUMENT (R10, R11, R173). -/
def Obligations.WritePicksWritesThePickTable : Prop :=
  (∀ p : Pick, p.accepted = true ↔ match p with
    | .unset | .zero | .one => True
    | .channelBit c b _ => 1 ≤ c ∧ c ≤ 1023 ∧ b ≤ 23)
  ∧ ∀ (s : State) (r : CmdRecord) (x : BankId) (first : BitVec 16) (groups : List (List Byte)),
    s.ReplyInv → s.takeable = some r → r.code = 0x23 → (s.bank x).state = .editable →
    r.args = [x.selector] ++ bytesOf 2 first.toNat ++ groups.flatten →
    1 ≤ groups.length → groups.length ≤ 16 → (∀ g ∈ groups, g.length = 3) →
    let a := first.toNat
    let ps := groups.map decodePick
    ((∀ p ∈ ps, p.accepted = true) → a + ps.length ≤ 512 → Table.wf .unset (s.bank x).picks = true →
      ∃ t, Table.wf .unset t = true
        ∧ (∀ i, Table.get .unset t i =
            if i < a then Table.get .unset (s.bank x).picks i
            else ps.getD (i - a) (Table.get .unset (s.bank x).picks i))
        ∧ exec .writePicks s = .next ((s.answered r 0x00 []).setBank x { s.bank x with picks := t }))
    ∧ (512 < a + ps.length → exec .writePicks s = .next (s.answered r 0x10 []))
    ∧ ((∃ p ∈ ps, p.accepted = false) → exec .writePicks s = .next (s.answered r 0x10 []))

/-- CLEAR_BANK makes the geometry of an EDITABLE bank absent, every place EMPTY, every list empty and every pick UNSET,
replies OK, and leaves its state, the other bank, the channel table and the format in force; before that come the checks
of R1 and R13 (R14). -/
def Obligations.ClearBankEmptiesOneBank : Prop :=
  ∀ (s : State) (r : CmdRecord) (selector : Byte),
    s.ReplyInv → s.takeable = some r → r.code = 0x24 → r.args = [selector] →
    (2 ≤ selector.toNat → exec .clearBank s = .next (s.answered r 0x10 []))
    ∧ ∀ x : BankId, selector = x.selector →
      ((s.bank x).state = .active → exec .clearBank s = .next (s.answered r 0x13 []))
      ∧ ((s.bank x).state = .pending → exec .clearBank s = .next (s.answered r 0x14 []))
      ∧ ((s.bank x).state = .editable → ∃ b : Bank,
        b.geometry = none ∧ (∀ p, Table.get .empty b.template p = .empty) ∧ (∀ l, Table.get [] b.rotation l = [])
        ∧ (∀ a, Table.get .unset b.picks a = .unset) ∧ b.state = .editable
        ∧ exec .clearBank s = .next ((s.answered r 0x00 []).setBank x b))

/-- READ_BANK reports the geometry, up to 5 descriptors, up to 4 rotation entries or up to 10 picks of a bank in any
state and changes nothing; a bank, selector or index out of range is refused with BAD_ARGUMENT (R15, 11.5). -/
def Obligations.ReadBankReportsContents : Prop :=
  ∀ (s : State) (r : CmdRecord) (selector what i j : Byte),
    s.ReplyInv → s.takeable = some r → r.code = 0x25 → r.args = [selector, what, i, j] →
    let index := i.toNat * 256 + j.toNat
    (2 ≤ selector.toNat ∨ 4 ≤ what.toNat → exec .readBank s = .next (s.answered r 0x10 []))
    ∧ ∀ x : BankId, selector = x.selector →
      let b := s.bank x
      (what = 0x00 → exec .readBank s = .next (s.answered r 0x00 (
        (match b.state with | .editable => 0x00 | .validating => 0x01 | .pending => 0x02 | .active => 0x03) ::
          match b.geometry with
          | none => List.replicate 13 0
          | some g => [0x01, BitVec.ofNat 8 g.width] ++ bytesOf 2 g.length ++ bytesOf 2 g.depth
              ++ bytesOf 2 g.fill.toNat ++ bytesOf 2 g.ratioN.toNat ++ bytesOf 3 g.ratioD.toNat)))
      ∧ (what = 0x01 → exec .readBank s = .next (
        if index ≤ 511 then s.answered r 0x00 ([i, j] ++
          (List.range (min 5 (512 - index))).flatMap fun k => encodeSlot (Table.get .empty b.template (index + k)))
        else s.answered r 0x10 []))
      ∧ (what = 0x02 → exec .readBank s = .next (
        let list := Table.get [] b.rotation i.toNat
        if i.toNat ≤ 31 ∧ j.toNat ≤ 63 then s.answered r 0x00 ([i, BitVec.ofNat 8 list.length, j] ++
          ((list.drop j.toNat).take 4).flatMap encodeSlot)
        else s.answered r 0x10 []))
      ∧ (what = 0x03 → exec .readBank s = .next (
        if index ≤ 511 then s.answered r 0x00 ([i, j] ++
          (List.range (min 10 (512 - index))).flatMap fun k => encodePick (Table.get .unset b.picks (index + k)))
        else s.answered r 0x10 []))

/-! ### SWITCH, STOP, time and counters -/

/-- SWITCH is refused with BAD_ARGUMENT, BUSY or BANK_ACTIVE in the order of R56, changing the two queues alone; an
accepted one makes the bank VALIDATING, starts its validation and keeps its reservation of 9 bytes with no reply
(R56, R57). -/
def Obligations.SwitchStartsValidation : Prop :=
  ∀ (s : State) (r : CmdRecord) (selector : Byte),
    s.ReplyInv → s.takeable = some r → r.code = 0x30 → r.args = [selector] →
    (2 ≤ selector.toNat → exec .switch s = .next (s.answered r 0x10 []))
    ∧ ∀ x : BankId, selector = x.selector →
      (s.engine.pendingSwitch ≠ none ∨ s.engine.frameIndex = none →
        exec .switch s = .next (s.answered r 0x15 []))
      ∧ (s.engine.pendingSwitch = none → s.engine.frameIndex ≠ none →
        ((s.bank x).state = .active → exec .switch s = .next (s.answered r 0x13 []))
        ∧ ((s.bank x).state = .editable → exec .switch s = .next { s.setBankState x .validating with
            commands := s.commands.tail
            validation := some ⟨x, r.tag, .test .geometry⟩
            replies := { s.replies with
              reservations := s.replies.reservations ++ [⟨r.tag, 0x30, 9⟩] } }))

/-- STOP by the table of R61: OK at once in BOOT with nothing pending; a pending switch is cancelled and answered
CANCELLED first (R62); in RUN the stop becomes pending with its reservation of 9 bytes; a stop pending already is
answered BUSY. -/
def Obligations.StopFollowsItsTable : Prop :=
  ∀ (s : State) (r : CmdRecord), s.PoolInv → s.EngineInv → s.PinInv → s.ReplyInv →
    s.takeable = some r → r.code = 0x31 → r.args = [] →
    let run := s.engine.inForce ≠ .boot
    (¬ run → s.engine.pendingSwitch = none → exec .stop s = .next (s.answered r 0x00 []))
    ∧ (run → s.engine.pendingSwitch = none → exec .stop s = .next { s with
        commands := s.commands.tail
        engine := { s.engine with pendingSwitch := some ⟨.boot, r.tag⟩ }
        replies := { s.replies with reservations := [⟨r.tag, 0x31, 9⟩] } })
    ∧ (∀ tag, run → s.engine.pendingSwitch = some ⟨.boot, tag⟩ → exec .stop s = .next (s.answered r 0x15 []))
    ∧ (∀ x tag, s.engine.pendingSwitch = some ⟨.bank x, tag⟩ →
      ∃ t, Table.wf .blank t = true
        ∧ (∀ c, Table.get .blank t c = { s.channel c with pendingRef := false })
        ∧ (¬ run → exec .stop s = .next { s.setBankState x .editable with
            commands := s.commands.tail
            channels := t
            engine := { s.engine with pendingRefs := [], pendingSwitch := none }
            replies := { s.replies with
              records := s.replies.records ++ [replyRecord tag 0x30 0x03 [], replyRecord r.tag 0x31 0x00 []]
              reservations := [] } })
        ∧ (run → exec .stop s = .next { s.setBankState x .editable with
            commands := s.commands.tail
            channels := t
            engine := { s.engine with pendingRefs := [], pendingSwitch := some ⟨.boot, r.tag⟩ }
            replies := { s.replies with
              records := s.replies.records ++ [replyRecord tag 0x30 0x03 []]
              reservations := [⟨r.tag, 0x31, 9⟩] } }))

/-- SET_TIMEBASE sets P and the count to 0 (R119); an edge at the same instant whose advance is still due counts 1 under
the new P, and stays due where P is 1 (R119, take first; log 4). SET_TIME sets the pending load, in place of any earlier
one (R120). Neither changes the counter or the latch. -/
def Obligations.TimeCommandsSetThePrescalerAndTheLoad : Prop :=
  ∀ (s : State) (r : CmdRecord), s.ReplyInv → s.takeable = some r →
    (∀ v : BitVec 16, r.code = 0x40 → r.args = bytesOf 2 v.toNat →
      exec .setTimebase s = .next { s.answered r 0x00 [] with
        timeBase :=
          let t := { s.timeBase with prescaler := v.toNat + 1, count := 0 }
          if s.timeBase.edge = .advanceDue ∧ v ≠ 0 then { t with count := 1, edge := .taken } else t })
    ∧ (∀ v : BitVec 48, r.code = 0x41 → r.args = bytesOf 6 v.toNat →
      exec .setTime s = .next { s.answered r 0x00 [] with timeBase := { s.timeBase with load := some v } })

/-- READ_COUNTERS reports the twelve device counters as they stand and, with option CLEAR, sets them to 0 afterwards; an
unknown option is refused with BAD_ARGUMENT and changes no counter; latched flags and channel counters stay (R143). -/
def Obligations.ReadCountersReportsAndClears : Prop :=
  ∀ (s : State) (r : CmdRecord) (option : Byte),
    s.ReplyInv → s.takeable = some r → r.code = 0x50 → r.args = [option] →
    let k := s.health.counters
    let payload := bytesOf 2 k.framingErrors.toNat ++ bytesOf 2 k.lengthErrors.toNat ++ bytesOf 2 k.crcErrors.toNat
      ++ bytesOf 2 k.kindErrors.toNat ++ bytesOf 2 k.orphanSamples.toNat ++ bytesOf 2 k.commandsLost.toNat
      ++ bytesOf 2 k.noticesLost.toNat ++ bytesOf 2 k.switchesDone.toNat ++ bytesOf 2 k.validationFailures.toNat
      ++ bytesOf 2 k.overflowDrops.toNat ++ bytesOf 2 k.underruns.toNat ++ bytesOf 2 k.seqFaults.toNat
    (option = 0x00 → exec .readCounters s = .next (s.answered r 0x00 payload))
    ∧ (option = 0x01 → exec .readCounters s = .next { s.answered r 0x00 payload with
        health := { s.health with counters := ⟨0, 0, 0, 0, 0, 0, 0, 0, 0, 0, 0, 0⟩ } })
    ∧ (2 ≤ option.toNat → exec .readCounters s = .next (s.answered r 0x10 []))

/-- CLEAR_COUNTERS sets the counters of its scope to 0 and nothing else, after the checks of scope, channel number and
definition in that order (R144). -/
def Obligations.ClearCountersClearsItsScope : Prop :=
  ∀ (s : State) (r : CmdRecord) (scope : Byte) (c : Nat),
    s.ReplyInv → s.takeable = some r → r.code = 0x51 → c < 65536 → r.args = scope :: bytesOf 2 c →
    let zero : ChannelCounters := ⟨0, 0, 0, 0, 0, 0, 0⟩
    (3 ≤ scope.toNat → exec .clearCounters s = .next (s.answered r 0x10 []))
    ∧ (scope = 0x00 → exec .clearCounters s = .next { s.answered r 0x00 [] with
        health := { s.health with counters := ⟨0, 0, 0, 0, 0, 0, 0, 0, 0, 0, 0, 0⟩ } })
    ∧ (scope = 0x01 → exec .clearCounters s = .next (
        if c = 0 ∨ 1023 < c then s.answered r 0x10 []
        else if (s.channel c).keeping = .undefined then s.answered r 0x17 []
        else (s.answered r 0x00 []).setChannel c { s.channel c with counters := zero }))
    ∧ (scope = 0x02 → s.PoolInv → ∃ t, Table.wf .blank t = true
        ∧ (∀ n, Table.get .blank t n = { s.channel n with counters := zero })
        ∧ exec .clearCounters s = .next { s.answered r 0x00 [] with channels := t })

/-! ### What every step keeps -/

/-- Free cells and queue lengths add up to 2048, no queue passes its limit, and only channels 1 to 1023 are defined
(R69, R93). -/
def Obligations.StepsKeepThePool : Prop :=
  ∀ s t : State, step s = .next t → s.PoolInv → t.PoolInv

/-- Ages, freshness and limits stay in range, with NEVER, FRESH and STALE as R77 describes them (R70, R77); at most 8
command records (R147); only the nine latched flags are ever set (R136); P is from 1 to 65536 and the count below it
(R118); the intake interface holds at most 66 bytes and 7 bits (R161), and in IDLE none, with the overlong mark clear,
which after a completion is the model's choice (log 21). -/
def Obligations.StepsKeepRangesOfTheSmallBlocks : Prop :=
  ∀ s t : State, step s = .next t →
    (s.FreshnessInv → t.FreshnessInv) ∧ (s.CommandInv → t.CommandInv) ∧ (s.HealthInv → t.HealthInv)
    ∧ (s.TimeInv → t.TimeInv) ∧ (s.ResetHeld → s.IntakeInv → t.IntakeInv)

/-- The reply queue never passes 16 places and 512 bytes, every record is well made, and a reservation outlives its take
only for the SWITCH in validation or the pending switch or stop (R65, R124, R128). -/
def Obligations.StepsKeepTheReplyQueue : Prop :=
  ∀ s t : State, step s = .next t → s.ReplyInv → t.ReplyInv

/-- Bank states, the format in force, the pending switch and the validation stay in agreement (R12, R54, R55). -/
def Obligations.StepsKeepBankStates : Prop :=
  ∀ s t : State, step s = .next t → s.EngineInv → t.EngineInv

/-- Every format that is pending or in force has passed the whole-format tests, so it has a REPLY place of at least 10
bits and a ratio that the pacer can use, and place, frame index and accumulator stay in range (R2, R17, R26, R27, R110,
R111). While RESETN is asserted every block stays at its pin-reset value. -/
def Obligations.StepsKeepFormatsAndPacer : Prop :=
  ∀ s t : State, step s = .next t → s.ResetHeld →
    t.ResetHeld ∧ (s.EngineInv → s.FormatInv → t.FormatInv ∧ (s.PacerInv → t.PacerInv))

/-- The pin flags are membership in the two reference sets, and every pinned or validated channel is defined (R55,
R64). -/
def Obligations.StepsKeepPinnedChannels : Prop :=
  ∀ s t : State, step s = .next t → s.PoolInv → s.EngineInv → s.PinInv → t.PinInv

/-- Both banks hold only contents that the write commands accept, in canonical tables (R5, R8, R10; log 13); a bank that
is not EDITABLE keeps its contents at every command but a pin reset and a FULL reset (R13). -/
def Obligations.BankContentsAreProtected : Prop :=
  (∀ s t : State, step s = .next t → s.BankInv → t.BankInv)
  ∧ ∀ (i : Instr) (s t : State) (x : BankId), exec i s = .next t → (s.bank x).state ≠ .editable →
    (∀ lmode, i ≠ .pinResetAssert lmode) → i ≠ .resetPartFull →
    t.bank x = { s.bank x with state := (t.bank x).state }

/-- The format in force changes only at a reset or in a fetch of place 0 that is a cycle boundary (R27, R45). -/
def Obligations.FormatChangesAtBoundariesAlone : Prop :=
  ∀ (i : Instr) (s t : State), exec i s = .next t → t.engine.inForce ≠ s.engine.inForce →
    (∃ lmode, i = .pinResetAssert lmode) ∨ i = .resetPartRestart ∨ i = .resetPartFull
    ∨ (s.engine.place = 0 ∧ s.wordNeeded = true ∧ s.strobeOccurs = true ∧ t.engine.frameIndex = some 0)

/-- The bytes of 11.4, kind by kind and pick type by pick type: what six bytes and three bytes spell, the positions that
a kind or type does not use at any value; and what reports a descriptor or pick, those positions 0 (R4, R173). Every
descriptor and pick that passes its write-time check is read back from the bytes that report it. -/
def Obligations.DescriptorsAndPicksRoundTrip : Prop :=
  (∀ b₁ b₂ b₃ b₄ b₅ : Byte,
    decodeSlot [0x00, b₁, b₂, b₃, b₄, b₅] = some .empty
    ∧ decodeSlot [0x01, b₁, b₂, b₃, b₄, b₅] = some (.const (b₁ ++ b₂))
    ∧ decodeSlot [0x02, b₁, b₂, b₃, b₄, b₅] = some .fill
    ∧ decodeSlot [0x03, b₁, b₂, b₃, b₄, b₅] = some .frameIndex
    ∧ decodeSlot [0x04, b₁, b₂, b₃, b₄, b₅] = some .frameCount
    ∧ decodeSlot [0x05, b₁, b₂, b₃, b₄, b₅] = some (.time b₁.toNat b₂.toNat)
    ∧ decodeSlot [0x06, b₁, b₂, b₃, b₄, b₅] = some .health
    ∧ decodeSlot [0x07, b₁, b₂, b₃, b₄, b₅] = some .reply
    ∧ decodeSlot [0x08, b₁, b₂, b₃, b₄, b₅] = some (.channel (b₁.toNat * 256 + b₂.toNat)
        (if b₃.getLsbD 0 = true then .held else .capture) (b₃.getLsbD 1) b₄.toNat b₅.toNat)
    ∧ decodeSlot [0x09, b₁, b₂, b₃, b₄, b₅] = some (.packed (b₁.toNat * 256 + b₂.toNat) b₃.toNat)
    ∧ decodeSlot [0x0A, b₁, b₂, b₃, b₄, b₅] = some (.rotate b₁.toNat)
    ∧ ∀ kind : Byte, 0x0B ≤ kind.toNat → decodeSlot [kind, b₁, b₂, b₃, b₄, b₅] = none)
  ∧ (∀ b₀ b₁ b₂ : Byte, decodePick [b₀, b₁, b₂] = match b₀.getLsbD 7, b₀.getLsbD 6 with
    | false, false => .unset
    | false, true => .channelBit (b₁.toNat * 256 + b₂.toNat) (b₀.extractLsb' 0 5).toNat
        (if b₀.getLsbD 5 = true then .held else .capture)
    | true, false => .zero
    | true, true => .one)
  ∧ (encodeSlot .empty = [0x00, 0, 0, 0, 0, 0] ∧ encodeSlot .fill = [0x02, 0, 0, 0, 0, 0]
    ∧ encodeSlot .frameIndex = [0x03, 0, 0, 0, 0, 0] ∧ encodeSlot .frameCount = [0x04, 0, 0, 0, 0, 0]
    ∧ encodeSlot .health = [0x06, 0, 0, 0, 0, 0] ∧ encodeSlot .reply = [0x07, 0, 0, 0, 0, 0])
  ∧ (∀ high low : Byte, encodeSlot (.const (high ++ low)) = [0x01, high, low, 0, 0, 0])
  ∧ (∀ shift width : Byte, encodeSlot (.time shift.toNat width.toNat) = [0x05, shift, width, 0, 0, 0])
  ∧ (∀ (high low shift width : Byte) (m : RefMode) (signed : Bool),
    encodeSlot (.channel (high.toNat * 256 + low.toNat) m signed shift.toNat width.toNat)
      = [0x08, high, low, (match m, signed with
          | .capture, false => 0x00 | .held, false => 0x01 | .capture, true => 0x02 | .held, true => 0x03),
        shift, width])
  ∧ (∀ high low count : Byte, encodeSlot (.packed (high.toNat * 256 + low.toNat) count.toNat)
      = [0x09, high, low, count, 0, 0])
  ∧ (∀ l : Byte, encodeSlot (.rotate l.toNat) = [0x0A, l, 0, 0, 0, 0])
  ∧ (encodePick .unset = [0x00, 0, 0] ∧ encodePick .zero = [0x80, 0, 0] ∧ encodePick .one = [0xC0, 0, 0])
  ∧ (∀ (high low : Byte) (bit : BitVec 5) (m : RefMode),
    encodePick (.channelBit (high.toNat * 256 + low.toNat) bit.toNat m)
      = [(match m with | .capture => 0x40 | .held => 0x60) + bit.setWidth 8, high, low])
  ∧ (∀ d : Slot, d.accepted = true → decodeSlot (encodeSlot d) = some d ∧ (encodeSlot d).length = 6)
  ∧ ∀ p : Pick, p.accepted = true → decodePick (encodePick p) = p ∧ (encodePick p).length = 3
end

