-- ==== Sys2Proof/Laws/State.lean ====
section
/-! SUPPORT. One lemma for each field and each named update of the state, so that no later proof unfolds a record
update. -/

namespace Sys2Proof.Machine

variable (s : State)

/-! ### Flags and counters -/

@[simp] theorem State.setFlag_pending (f : LatchedFlag) : (s.setFlag f).pending = s.pending := rfl
@[simp] theorem State.setFlag_pins (f : LatchedFlag) : (s.setFlag f).pins = s.pins := rfl
@[simp] theorem State.setFlag_intake (f : LatchedFlag) : (s.setFlag f).intake = s.intake := rfl
@[simp] theorem State.setFlag_channels (f : LatchedFlag) : (s.setFlag f).channels = s.channels := rfl
@[simp] theorem State.setFlag_freeCells (f : LatchedFlag) : (s.setFlag f).freeCells = s.freeCells := rfl
@[simp] theorem State.setFlag_bankA (f : LatchedFlag) : (s.setFlag f).bankA = s.bankA := rfl
@[simp] theorem State.setFlag_bankB (f : LatchedFlag) : (s.setFlag f).bankB = s.bankB := rfl
@[simp] theorem State.setFlag_engine (f : LatchedFlag) : (s.setFlag f).engine = s.engine := rfl
@[simp] theorem State.setFlag_serial (f : LatchedFlag) : (s.setFlag f).serial = s.serial := rfl
@[simp] theorem State.setFlag_timeBase (f : LatchedFlag) : (s.setFlag f).timeBase = s.timeBase := rfl
@[simp] theorem State.setFlag_commands (f : LatchedFlag) : (s.setFlag f).commands = s.commands := rfl
@[simp] theorem State.setFlag_validation (f : LatchedFlag) : (s.setFlag f).validation = s.validation := rfl
@[simp] theorem State.setFlag_replies (f : LatchedFlag) : (s.setFlag f).replies = s.replies := rfl
@[simp] theorem State.setFlag_health (f : LatchedFlag) : (s.setFlag f).health = s.health.set f := rfl
@[simp] theorem State.count_pending (c : DeviceCounter) (n : Nat) : (s.count c n).pending = s.pending := rfl
@[simp] theorem State.count_pins (c : DeviceCounter) (n : Nat) : (s.count c n).pins = s.pins := rfl
@[simp] theorem State.count_intake (c : DeviceCounter) (n : Nat) : (s.count c n).intake = s.intake := rfl
@[simp] theorem State.count_channels (c : DeviceCounter) (n : Nat) : (s.count c n).channels = s.channels := rfl
@[simp] theorem State.count_freeCells (c : DeviceCounter) (n : Nat) : (s.count c n).freeCells = s.freeCells := rfl
@[simp] theorem State.count_bankA (c : DeviceCounter) (n : Nat) : (s.count c n).bankA = s.bankA := rfl
@[simp] theorem State.count_bankB (c : DeviceCounter) (n : Nat) : (s.count c n).bankB = s.bankB := rfl
@[simp] theorem State.count_engine (c : DeviceCounter) (n : Nat) : (s.count c n).engine = s.engine := rfl
@[simp] theorem State.count_serial (c : DeviceCounter) (n : Nat) : (s.count c n).serial = s.serial := rfl
@[simp] theorem State.count_timeBase (c : DeviceCounter) (n : Nat) : (s.count c n).timeBase = s.timeBase := rfl
@[simp] theorem State.count_commands (c : DeviceCounter) (n : Nat) : (s.count c n).commands = s.commands := rfl
@[simp] theorem State.count_validation (c : DeviceCounter) (n : Nat) : (s.count c n).validation = s.validation := rfl
@[simp] theorem State.count_replies (c : DeviceCounter) (n : Nat) : (s.count c n).replies = s.replies := rfl
@[simp] theorem State.count_health (c : DeviceCounter) (n : Nat) :
    (s.count c n).health = { s.health with counters := s.health.counters.add c n } := rfl
@[simp] theorem State.report_pending (c : DeviceCounter) (n : Nat) (f : LatchedFlag) :
    (s.report c n f).pending = s.pending := rfl
@[simp] theorem State.report_pins (c : DeviceCounter) (n : Nat) (f : LatchedFlag) :
    (s.report c n f).pins = s.pins := rfl
@[simp] theorem State.report_intake (c : DeviceCounter) (n : Nat) (f : LatchedFlag) :
    (s.report c n f).intake = s.intake := rfl
@[simp] theorem State.report_channels (c : DeviceCounter) (n : Nat) (f : LatchedFlag) :
    (s.report c n f).channels = s.channels := rfl
@[simp] theorem State.report_freeCells (c : DeviceCounter) (n : Nat) (f : LatchedFlag) :
    (s.report c n f).freeCells = s.freeCells := rfl
@[simp] theorem State.report_bankA (c : DeviceCounter) (n : Nat) (f : LatchedFlag) :
    (s.report c n f).bankA = s.bankA := rfl
@[simp] theorem State.report_bankB (c : DeviceCounter) (n : Nat) (f : LatchedFlag) :
    (s.report c n f).bankB = s.bankB := rfl
@[simp] theorem State.report_engine (c : DeviceCounter) (n : Nat) (f : LatchedFlag) :
    (s.report c n f).engine = s.engine := rfl
@[simp] theorem State.report_serial (c : DeviceCounter) (n : Nat) (f : LatchedFlag) :
    (s.report c n f).serial = s.serial := rfl
@[simp] theorem State.report_timeBase (c : DeviceCounter) (n : Nat) (f : LatchedFlag) :
    (s.report c n f).timeBase = s.timeBase := rfl
@[simp] theorem State.report_commands (c : DeviceCounter) (n : Nat) (f : LatchedFlag) :
    (s.report c n f).commands = s.commands := rfl
@[simp] theorem State.report_validation (c : DeviceCounter) (n : Nat) (f : LatchedFlag) :
    (s.report c n f).validation = s.validation := rfl
@[simp] theorem State.report_replies (c : DeviceCounter) (n : Nat) (f : LatchedFlag) :
    (s.report c n f).replies = s.replies := rfl
@[simp] theorem State.report_health (c : DeviceCounter) (n : Nat) (f : LatchedFlag) :
    (s.report c n f).health = Health.set { s.health with counters := s.health.counters.add c n } f := rfl
@[simp] theorem Health.set_counters (h : Health) (f : LatchedFlag) : (h.set f).counters = h.counters := rfl

/-! ### Channel records and pin flags -/

@[simp] theorem State.setChannel_pending (c : Nat) (ch : Channel) : (s.setChannel c ch).pending = s.pending := rfl
@[simp] theorem State.setChannel_pins (c : Nat) (ch : Channel) : (s.setChannel c ch).pins = s.pins := rfl
@[simp] theorem State.setChannel_intake (c : Nat) (ch : Channel) : (s.setChannel c ch).intake = s.intake := rfl
@[simp] theorem State.setChannel_freeCells (c : Nat) (ch : Channel) :
    (s.setChannel c ch).freeCells = s.freeCells := rfl
@[simp] theorem State.setChannel_bankA (c : Nat) (ch : Channel) : (s.setChannel c ch).bankA = s.bankA := rfl
@[simp] theorem State.setChannel_bankB (c : Nat) (ch : Channel) : (s.setChannel c ch).bankB = s.bankB := rfl
@[simp] theorem State.setChannel_engine (c : Nat) (ch : Channel) : (s.setChannel c ch).engine = s.engine := rfl
@[simp] theorem State.setChannel_serial (c : Nat) (ch : Channel) : (s.setChannel c ch).serial = s.serial := rfl
@[simp] theorem State.setChannel_timeBase (c : Nat) (ch : Channel) : (s.setChannel c ch).timeBase = s.timeBase := rfl
@[simp] theorem State.setChannel_commands (c : Nat) (ch : Channel) : (s.setChannel c ch).commands = s.commands := rfl
@[simp] theorem State.setChannel_validation (c : Nat) (ch : Channel) :
    (s.setChannel c ch).validation = s.validation := rfl
@[simp] theorem State.setChannel_replies (c : Nat) (ch : Channel) : (s.setChannel c ch).replies = s.replies := rfl
@[simp] theorem State.setChannel_health (c : Nat) (ch : Channel) : (s.setChannel c ch).health = s.health := rfl
@[simp] theorem State.setChannel_channels (c : Nat) (ch : Channel) :
    (s.setChannel c ch).channels = Table.put .blank s.channels c ch := rfl
@[simp] theorem State.setPins_pending (a p : Nat → Bool → Bool) : (s.setPins a p).pending = s.pending := rfl
@[simp] theorem State.setPins_pins (a p : Nat → Bool → Bool) : (s.setPins a p).pins = s.pins := rfl
@[simp] theorem State.setPins_intake (a p : Nat → Bool → Bool) : (s.setPins a p).intake = s.intake := rfl
@[simp] theorem State.setPins_freeCells (a p : Nat → Bool → Bool) : (s.setPins a p).freeCells = s.freeCells := rfl
@[simp] theorem State.setPins_bankA (a p : Nat → Bool → Bool) : (s.setPins a p).bankA = s.bankA := rfl
@[simp] theorem State.setPins_bankB (a p : Nat → Bool → Bool) : (s.setPins a p).bankB = s.bankB := rfl
@[simp] theorem State.setPins_engine (a p : Nat → Bool → Bool) : (s.setPins a p).engine = s.engine := rfl
@[simp] theorem State.setPins_serial (a p : Nat → Bool → Bool) : (s.setPins a p).serial = s.serial := rfl
@[simp] theorem State.setPins_timeBase (a p : Nat → Bool → Bool) : (s.setPins a p).timeBase = s.timeBase := rfl
@[simp] theorem State.setPins_commands (a p : Nat → Bool → Bool) : (s.setPins a p).commands = s.commands := rfl
@[simp] theorem State.setPins_validation (a p : Nat → Bool → Bool) : (s.setPins a p).validation = s.validation := rfl
@[simp] theorem State.setPins_replies (a p : Nat → Bool → Bool) : (s.setPins a p).replies = s.replies := rfl
@[simp] theorem State.setPins_health (a p : Nat → Bool → Bool) : (s.setPins a p).health = s.health := rfl
@[simp] theorem State.setPins_channels (a p : Nat → Bool → Bool) :
    (s.setPins a p).channels = Table.update (fun c ch =>
      { ch with activeRef := a c ch.activeRef, pendingRef := p c ch.pendingRef }) s.channels := rfl

/-! ### Banks -/

@[simp] theorem State.setBank_pending (x : BankId) (b : Bank) :
    (s.setBank x b).pending = s.pending := by cases x <;> rfl
@[simp] theorem State.setBank_pins (x : BankId) (b : Bank) : (s.setBank x b).pins = s.pins := by cases x <;> rfl
@[simp] theorem State.setBank_intake (x : BankId) (b : Bank) : (s.setBank x b).intake = s.intake := by cases x <;> rfl
@[simp] theorem State.setBank_channels (x : BankId) (b : Bank) :
    (s.setBank x b).channels = s.channels := by cases x <;> rfl
@[simp] theorem State.setBank_freeCells (x : BankId) (b : Bank) :
    (s.setBank x b).freeCells = s.freeCells := by cases x <;> rfl
@[simp] theorem State.setBank_engine (x : BankId) (b : Bank) : (s.setBank x b).engine = s.engine := by cases x <;> rfl
@[simp] theorem State.setBank_serial (x : BankId) (b : Bank) : (s.setBank x b).serial = s.serial := by cases x <;> rfl
@[simp] theorem State.setBank_timeBase (x : BankId) (b : Bank) :
    (s.setBank x b).timeBase = s.timeBase := by cases x <;> rfl
@[simp] theorem State.setBank_commands (x : BankId) (b : Bank) :
    (s.setBank x b).commands = s.commands := by cases x <;> rfl
@[simp] theorem State.setBank_validation (x : BankId) (b : Bank) :
    (s.setBank x b).validation = s.validation := by cases x <;> rfl
@[simp] theorem State.setBank_replies (x : BankId) (b : Bank) :
    (s.setBank x b).replies = s.replies := by cases x <;> rfl
@[simp] theorem State.setBank_health (x : BankId) (b : Bank) : (s.setBank x b).health = s.health := by cases x <;> rfl
@[simp] theorem State.bank_setBank (x : BankId) (b : Bank) : (s.setBank x b).bank x = b := by cases x <;> rfl

theorem State.bank_setBank_ne {x y : BankId} (h : y ≠ x) (b : Bank) : (s.setBank x b).bank y = s.bank y := by
  cases x <;> cases y <;> first | rfl | exact absurd rfl h

@[simp] theorem State.setBank_bank (x : BankId) : s.setBank x (s.bank x) = s := by cases x <;> rfl

@[simp] theorem State.setBank_setBank (x : BankId) (b b' : Bank) : (s.setBank x b).setBank x b' = s.setBank x b' := by
  cases x <;> rfl
@[simp] theorem State.setBankState_pending (x : BankId) (st : BankState) :
    (s.setBankState x st).pending = s.pending := by cases x <;> rfl
@[simp] theorem State.setBankState_pins (x : BankId) (st : BankState) :
    (s.setBankState x st).pins = s.pins := by cases x <;> rfl
@[simp] theorem State.setBankState_intake (x : BankId) (st : BankState) :
    (s.setBankState x st).intake = s.intake := by cases x <;> rfl
@[simp] theorem State.setBankState_channels (x : BankId) (st : BankState) :
    (s.setBankState x st).channels = s.channels := by cases x <;> rfl
@[simp] theorem State.setBankState_freeCells (x : BankId) (st : BankState) :
    (s.setBankState x st).freeCells = s.freeCells := by cases x <;> rfl
@[simp] theorem State.setBankState_engine (x : BankId) (st : BankState) :
    (s.setBankState x st).engine = s.engine := by cases x <;> rfl
@[simp] theorem State.setBankState_serial (x : BankId) (st : BankState) :
    (s.setBankState x st).serial = s.serial := by cases x <;> rfl
@[simp] theorem State.setBankState_timeBase (x : BankId) (st : BankState) :
    (s.setBankState x st).timeBase = s.timeBase := by cases x <;> rfl
@[simp] theorem State.setBankState_commands (x : BankId) (st : BankState) :
    (s.setBankState x st).commands = s.commands := by cases x <;> rfl
@[simp] theorem State.setBankState_validation (x : BankId) (st : BankState) :
    (s.setBankState x st).validation = s.validation := by cases x <;> rfl
@[simp] theorem State.setBankState_replies (x : BankId) (st : BankState) :
    (s.setBankState x st).replies = s.replies := by cases x <;> rfl
@[simp] theorem State.setBankState_health (x : BankId) (st : BankState) :
    (s.setBankState x st).health = s.health := by cases x <;> rfl
@[simp] theorem State.bank_setBankState (x : BankId) (st : BankState) :
    (s.setBankState x st).bank x = { s.bank x with state := st } := by cases x <;> rfl

theorem State.bank_setBankState_ne {x y : BankId} (h : y ≠ x) (st : BankState) :
    (s.setBankState x st).bank y = s.bank y := State.bank_setBank_ne s h _

/-! ### Replies -/

@[simp] theorem State.convert_pending (tag code status : Byte) (payload : List Byte) :
    (s.convert tag code status payload).pending = s.pending := rfl
@[simp] theorem State.convert_pins (tag code status : Byte) (payload : List Byte) :
    (s.convert tag code status payload).pins = s.pins := rfl
@[simp] theorem State.convert_intake (tag code status : Byte) (payload : List Byte) :
    (s.convert tag code status payload).intake = s.intake := rfl
@[simp] theorem State.convert_channels (tag code status : Byte) (payload : List Byte) :
    (s.convert tag code status payload).channels = s.channels := rfl
@[simp] theorem State.convert_freeCells (tag code status : Byte) (payload : List Byte) :
    (s.convert tag code status payload).freeCells = s.freeCells := rfl
@[simp] theorem State.convert_bankA (tag code status : Byte) (payload : List Byte) :
    (s.convert tag code status payload).bankA = s.bankA := rfl
@[simp] theorem State.convert_bankB (tag code status : Byte) (payload : List Byte) :
    (s.convert tag code status payload).bankB = s.bankB := rfl
@[simp] theorem State.convert_engine (tag code status : Byte) (payload : List Byte) :
    (s.convert tag code status payload).engine = s.engine := rfl
@[simp] theorem State.convert_serial (tag code status : Byte) (payload : List Byte) :
    (s.convert tag code status payload).serial = s.serial := rfl
@[simp] theorem State.convert_timeBase (tag code status : Byte) (payload : List Byte) :
    (s.convert tag code status payload).timeBase = s.timeBase := rfl
@[simp] theorem State.convert_commands (tag code status : Byte) (payload : List Byte) :
    (s.convert tag code status payload).commands = s.commands := rfl
@[simp] theorem State.convert_validation (tag code status : Byte) (payload : List Byte) :
    (s.convert tag code status payload).validation = s.validation := rfl
@[simp] theorem State.convert_health (tag code status : Byte) (payload : List Byte) :
    (s.convert tag code status payload).health = s.health := rfl
@[simp] theorem State.reply_pending (r : CmdRecord) (st : Status) (payload : List Byte) :
    (s.reply r st payload).pending = s.pending := rfl
@[simp] theorem State.reply_pins (r : CmdRecord) (st : Status) (payload : List Byte) :
    (s.reply r st payload).pins = s.pins := rfl
@[simp] theorem State.reply_intake (r : CmdRecord) (st : Status) (payload : List Byte) :
    (s.reply r st payload).intake = s.intake := rfl
@[simp] theorem State.reply_channels (r : CmdRecord) (st : Status) (payload : List Byte) :
    (s.reply r st payload).channels = s.channels := rfl
@[simp] theorem State.reply_freeCells (r : CmdRecord) (st : Status) (payload : List Byte) :
    (s.reply r st payload).freeCells = s.freeCells := rfl
@[simp] theorem State.reply_bankA (r : CmdRecord) (st : Status) (payload : List Byte) :
    (s.reply r st payload).bankA = s.bankA := rfl
@[simp] theorem State.reply_bankB (r : CmdRecord) (st : Status) (payload : List Byte) :
    (s.reply r st payload).bankB = s.bankB := rfl
@[simp] theorem State.reply_engine (r : CmdRecord) (st : Status) (payload : List Byte) :
    (s.reply r st payload).engine = s.engine := rfl
@[simp] theorem State.reply_serial (r : CmdRecord) (st : Status) (payload : List Byte) :
    (s.reply r st payload).serial = s.serial := rfl
@[simp] theorem State.reply_timeBase (r : CmdRecord) (st : Status) (payload : List Byte) :
    (s.reply r st payload).timeBase = s.timeBase := rfl
@[simp] theorem State.reply_commands (r : CmdRecord) (st : Status) (payload : List Byte) :
    (s.reply r st payload).commands = s.commands := rfl
@[simp] theorem State.reply_validation (r : CmdRecord) (st : Status) (payload : List Byte) :
    (s.reply r st payload).validation = s.validation := rfl
@[simp] theorem State.reply_health (r : CmdRecord) (st : Status) (payload : List Byte) :
    (s.reply r st payload).health = s.health := rfl
@[simp] theorem State.answered_pending (r : CmdRecord) (status : Byte) (payload : List Byte) :
    (s.answered r status payload).pending = s.pending := rfl
@[simp] theorem State.answered_pins (r : CmdRecord) (status : Byte) (payload : List Byte) :
    (s.answered r status payload).pins = s.pins := rfl
@[simp] theorem State.answered_intake (r : CmdRecord) (status : Byte) (payload : List Byte) :
    (s.answered r status payload).intake = s.intake := rfl
@[simp] theorem State.answered_channels (r : CmdRecord) (status : Byte) (payload : List Byte) :
    (s.answered r status payload).channels = s.channels := rfl
@[simp] theorem State.answered_freeCells (r : CmdRecord) (status : Byte) (payload : List Byte) :
    (s.answered r status payload).freeCells = s.freeCells := rfl
@[simp] theorem State.answered_bankA (r : CmdRecord) (status : Byte) (payload : List Byte) :
    (s.answered r status payload).bankA = s.bankA := rfl
@[simp] theorem State.answered_bankB (r : CmdRecord) (status : Byte) (payload : List Byte) :
    (s.answered r status payload).bankB = s.bankB := rfl
@[simp] theorem State.answered_engine (r : CmdRecord) (status : Byte) (payload : List Byte) :
    (s.answered r status payload).engine = s.engine := rfl
@[simp] theorem State.answered_serial (r : CmdRecord) (status : Byte) (payload : List Byte) :
    (s.answered r status payload).serial = s.serial := rfl
@[simp] theorem State.answered_timeBase (r : CmdRecord) (status : Byte) (payload : List Byte) :
    (s.answered r status payload).timeBase = s.timeBase := rfl
@[simp] theorem State.answered_validation (r : CmdRecord) (status : Byte) (payload : List Byte) :
    (s.answered r status payload).validation = s.validation := rfl
@[simp] theorem State.answered_health (r : CmdRecord) (status : Byte) (payload : List Byte) :
    (s.answered r status payload).health = s.health := rfl
@[simp] theorem State.answered_commands (r : CmdRecord) (status : Byte) (payload : List Byte) :
    (s.answered r status payload).commands = s.commands.tail := rfl

/-! ### The take -/

@[simp] theorem State.beginTake_pending (r : CmdRecord) :
    (s.beginTake r).pending = s.pending := by unfold State.beginTake; split <;> rfl
@[simp] theorem State.beginTake_pins (r : CmdRecord) :
    (s.beginTake r).pins = s.pins := by unfold State.beginTake; split <;> rfl
@[simp] theorem State.beginTake_intake (r : CmdRecord) :
    (s.beginTake r).intake = s.intake := by unfold State.beginTake; split <;> rfl
@[simp] theorem State.beginTake_channels (r : CmdRecord) :
    (s.beginTake r).channels = s.channels := by unfold State.beginTake; split <;> rfl
@[simp] theorem State.beginTake_freeCells (r : CmdRecord) :
    (s.beginTake r).freeCells = s.freeCells := by unfold State.beginTake; split <;> rfl
@[simp] theorem State.beginTake_bankA (r : CmdRecord) :
    (s.beginTake r).bankA = s.bankA := by unfold State.beginTake; split <;> rfl
@[simp] theorem State.beginTake_bankB (r : CmdRecord) :
    (s.beginTake r).bankB = s.bankB := by unfold State.beginTake; split <;> rfl
@[simp] theorem State.beginTake_engine (r : CmdRecord) :
    (s.beginTake r).engine = s.engine := by unfold State.beginTake; split <;> rfl
@[simp] theorem State.beginTake_serial (r : CmdRecord) :
    (s.beginTake r).serial = s.serial := by unfold State.beginTake; split <;> rfl
@[simp] theorem State.beginTake_timeBase (r : CmdRecord) :
    (s.beginTake r).timeBase = s.timeBase := by unfold State.beginTake; split <;> rfl
@[simp] theorem State.beginTake_validation (r : CmdRecord) :
    (s.beginTake r).validation = s.validation := by unfold State.beginTake; split <;> rfl
@[simp] theorem State.beginTake_health (r : CmdRecord) :
    (s.beginTake r).health = s.health := by unfold State.beginTake; split <;> rfl
@[simp] theorem State.beginTake_commands (r : CmdRecord) : (s.beginTake r).commands = s.commands.tail := by
  unfold State.beginTake; split <;> rfl

/-! ### Notices -/

@[simp] theorem State.notice_pending (code : Byte) (payload : List Byte) :
    (s.notice code payload).pending = s.pending := by unfold State.notice; split <;> rfl
@[simp] theorem State.notice_pins (code : Byte) (payload : List Byte) :
    (s.notice code payload).pins = s.pins := by unfold State.notice; split <;> rfl
@[simp] theorem State.notice_intake (code : Byte) (payload : List Byte) :
    (s.notice code payload).intake = s.intake := by unfold State.notice; split <;> rfl
@[simp] theorem State.notice_channels (code : Byte) (payload : List Byte) :
    (s.notice code payload).channels = s.channels := by unfold State.notice; split <;> rfl
@[simp] theorem State.notice_freeCells (code : Byte) (payload : List Byte) :
    (s.notice code payload).freeCells = s.freeCells := by unfold State.notice; split <;> rfl
@[simp] theorem State.notice_bankA (code : Byte) (payload : List Byte) :
    (s.notice code payload).bankA = s.bankA := by unfold State.notice; split <;> rfl
@[simp] theorem State.notice_bankB (code : Byte) (payload : List Byte) :
    (s.notice code payload).bankB = s.bankB := by unfold State.notice; split <;> rfl
@[simp] theorem State.notice_engine (code : Byte) (payload : List Byte) :
    (s.notice code payload).engine = s.engine := by unfold State.notice; split <;> rfl
@[simp] theorem State.notice_serial (code : Byte) (payload : List Byte) :
    (s.notice code payload).serial = s.serial := by unfold State.notice; split <;> rfl
@[simp] theorem State.notice_timeBase (code : Byte) (payload : List Byte) :
    (s.notice code payload).timeBase = s.timeBase := by unfold State.notice; split <;> rfl
@[simp] theorem State.notice_commands (code : Byte) (payload : List Byte) :
    (s.notice code payload).commands = s.commands := by unfold State.notice; split <;> rfl
@[simp] theorem State.notice_validation (code : Byte) (payload : List Byte) :
    (s.notice code payload).validation = s.validation := by unfold State.notice; split <;> rfl

/-! ### The word handed over -/

@[simp] theorem State.handedOver_pending (x : Nat) : (s.handedOver x).pending = s.pending := rfl
@[simp] theorem State.handedOver_pins (x : Nat) : (s.handedOver x).pins = s.pins := rfl
@[simp] theorem State.handedOver_intake (x : Nat) : (s.handedOver x).intake = s.intake := rfl
@[simp] theorem State.handedOver_channels (x : Nat) : (s.handedOver x).channels = s.channels := rfl
@[simp] theorem State.handedOver_freeCells (x : Nat) : (s.handedOver x).freeCells = s.freeCells := rfl
@[simp] theorem State.handedOver_bankA (x : Nat) : (s.handedOver x).bankA = s.bankA := rfl
@[simp] theorem State.handedOver_bankB (x : Nat) : (s.handedOver x).bankB = s.bankB := rfl
@[simp] theorem State.handedOver_commands (x : Nat) : (s.handedOver x).commands = s.commands := rfl
@[simp] theorem State.handedOver_validation (x : Nat) : (s.handedOver x).validation = s.validation := rfl
@[simp] theorem State.handedOver_replies (x : Nat) : (s.handedOver x).replies = s.replies := rfl
@[simp] theorem State.handedOver_health (x : Nat) : (s.handedOver x).health = s.health := rfl
@[simp] theorem State.handedOver_timeBase (x : Nat) : (s.handedOver x).timeBase = s.timeBase.takeEdge := rfl
@[simp] theorem State.handedOver_inForce (x : Nat) : (s.handedOver x).engine.inForce = s.engine.inForce := rfl
@[simp] theorem State.handedOver_frameIndex (x : Nat) :
    (s.handedOver x).engine.frameIndex = s.engine.frameIndex := rfl

end Sys2Proof.Machine
end

