-- ==== Sys2Proof/Laws/Frames.lean ====
section
/-! SUPPORT. What each shared operation leaves alone: every lemma writes the state after the operation as the state
before it with named parts replaced. -/

namespace Sys2Proof.Machine

/-! ### Notices, arrivals, ticks -/

/-- A notice changes the reply queue or the health logic, nothing else (R131). -/
theorem State.notice_frame (s : State) (code : Byte) (payload : List Byte) :
    ∃ q h, s.notice code payload = { s with replies := q, health := h } := by
  unfold State.notice
  split
  · exact ⟨_, s.health, rfl⟩
  · exact ⟨s.replies, _, rfl⟩

/-- A row of notices does the same. -/
theorem State.notices_frame (code : Byte) (cs : List Nat) (s : State) :
    ∃ q h, cs.foldl (fun s c => s.notice code (bytesOf 2 c)) s = { s with replies := q, health := h } := by
  induction cs generalizing s with
  | nil => exact ⟨s.replies, s.health, rfl⟩
  | cons c cs ih =>
    obtain ⟨q, h, e⟩ := s.notice_frame code (bytesOf 2 c)
    obtain ⟨q', h', e'⟩ := ih { s with replies := q, health := h }
    exact ⟨q', h', by rw [List.foldl_cons, e, e']⟩

/-- The freshness tick (R79). -/
theorem State.tick_frame (s : State) :
    ∃ q h, s.tick = { s with
      channels := Table.update (fun _ ch => ch.tick) s.channels, replies := q, health := h } := by
  exact State.notices_frame noticeStale _ { s with channels := Table.update (fun _ ch => ch.tick) s.channels }

/-- The sample store at an accepted arrival (R98). -/
theorem State.appendSample_frame (s : State) (c : Nat) (ch : Channel) (p : QueuedPart) (v : Sample) :
    ∃ t n h, s.appendSample c ch p v = { s with channels := t, freeCells := n, health := h } := by
  unfold State.appendSample
  split
  · exact ⟨_, _, s.health, rfl⟩
  · exact ⟨_, s.freeCells, _, rfl⟩

theorem State.acceptSample_frame (s : State) (c : Nat) (ch : Channel) (seq : Byte) (v : Sample) :
    ∃ t n q h, s.acceptSample c ch seq v = { s with channels := t, freeCells := n, replies := q, health := h } := by
  unfold State.acceptSample
  dsimp only
  split
  · exact ⟨s.channels, s.freeCells, s.replies, s.health, rfl⟩
  · split
    · obtain ⟨q, h, e⟩ := State.notice_frame (s.setChannel c _) noticeFresh (bytesOf 2 c)
      exact ⟨_, s.freeCells, q, h, e⟩
    · exact ⟨_, s.freeCells, s.replies, s.health, rfl⟩
  · obtain ⟨t, n, h, e⟩ := s.appendSample_frame c _ _ v
    exact ⟨t, n, s.replies, h, e⟩

/-- One arrival: the channel table, the pool, notices, flags and counters (R72 to R78). -/
theorem State.arrive_frame (s : State) (c : Nat) (seq : Byte) (v : Sample) :
    ∃ t n q h, s.arrive c seq v = { s with channels := t, freeCells := n, replies := q, health := h } := by
  unfold State.arrive
  dsimp only
  split
  · exact ⟨s.channels, s.freeCells, s.replies, _, rfl⟩
  · split
    · exact s.acceptSample_frame c _ seq v
    · obtain ⟨t, n, q, h, e⟩ := (s.report .seqFaults 1 .seqFault).acceptSample_frame c _ seq v
      exact ⟨t, n, q, h, e⟩
    · exact ⟨_, s.freeCells, s.replies, _, rfl⟩
    · exact ⟨_, s.freeCells, s.replies, _, rfl⟩

/-- The arrivals of a message. -/
theorem State.arriveAll_frame (c : Nat) (vs : List Sample) (s : State) (seq : Byte) :
    ∃ t n q h, s.arriveAll c seq vs = { s with channels := t, freeCells := n, replies := q, health := h } := by
  induction vs generalizing s seq with
  | nil => exact ⟨s.channels, s.freeCells, s.replies, s.health, rfl⟩
  | cons v vs ih =>
    obtain ⟨t, n, q, h, e⟩ := s.arrive_frame c seq v
    obtain ⟨t', n', q', h', e'⟩ := ih { s with channels := t, freeCells := n, replies := q, health := h } (seq + 1)
    exact ⟨t', n', q', h', by rw [State.arriveAll, e, e']⟩

/-- The dispatch of a good message (R166, R167). -/
theorem State.dispatch_frame (s : State) (m : List Byte) (k : MessageKind) :
    ∃ t n q h l, s.dispatch m k
      = { s with channels := t, freeCells := n, replies := q, health := h, commands := l } := by
  cases k with
  | sample =>
    obtain ⟨t, n, q, h, e⟩ := State.arriveAll_frame (messageChannel m) [BitVec.ofNat 24 (fieldAt m 5 3)] s (byteAt m 4)
    exact ⟨t, n, q, h, s.commands, e⟩
  | block =>
    obtain ⟨t, n, q, h, e⟩ := State.arriveAll_frame (messageChannel m)
      ((groupsOf 3 (byteAt m 5).toNat (m.drop 6)).map fun v => BitVec.ofNat 24 (natOfBytes v)) s (byteAt m 4)
    exact ⟨t, n, q, h, s.commands, e⟩
  | command =>
    simp only [State.dispatch, State.pushCommand]
    split
    · exact ⟨s.channels, s.freeCells, s.replies, s.health, _, rfl⟩
    · exact ⟨s.channels, s.freeCells, s.replies, _, s.commands, rfl⟩

/-! ### Captures and word contents -/

/-- A capture: one channel record, the pool, flags and counters (R39, R40). -/
theorem State.capture_frame (s : State) (c : Nat) :
    ∃ t n h, (s.capture c).1 = { s with channels := t, freeCells := n, health := h } := by
  unfold State.capture
  dsimp only
  split
  · exact ⟨s.channels, s.freeCells, s.health, rfl⟩
  · split
    · exact ⟨_, s.freeCells, s.health, rfl⟩
    · exact ⟨_, s.freeCells, _, rfl⟩
    · exact ⟨_, s.freeCells, _, rfl⟩
  · split
    · exact ⟨_, _, s.health, rfl⟩
    · exact ⟨_, s.freeCells, _, rfl⟩

/-- A run of picks: its captures (R37, R41). -/
theorem State.packRun_frame (ps : List Pick) (s : State) (i : Nat) (done : List (Nat × Sample)) :
    ∃ t n h, (s.packRun i done ps).1 = { s with channels := t, freeCells := n, health := h } := by
  induction ps generalizing s i done with
  | nil => exact ⟨s.channels, s.freeCells, s.health, rfl⟩
  | cons p ps ih =>
    rcases p with _ | ⟨c, b, _ | _⟩ | _ | _
    · exact ih s (i + 1) done
    · simp only [State.packRun]
      split
      · exact ih s (i + 1) done
      · obtain ⟨t, n, h, e⟩ := s.capture_frame c
        obtain ⟨t', n', h', e'⟩ := ih (s.capture c).1 (i + 1) ((c, (s.capture c).2) :: done)
        exact ⟨t', n', h', by rw [e', e]⟩
    · exact ih s (i + 1) done
    · exact ih s (i + 1) done
    · exact ih s (i + 1) done

/-- The content of a word: captures, the health word's clearing, the reply queue's emission (R30 to R37). -/
theorem State.content_frame (s : State) (p : Nat) (d : Slot) :
    ∃ t n q h, (s.content p d).1 = { s with channels := t, freeCells := n, replies := q, health := h } := by
  rcases d with _ | _ | _ | _ | _ | _ | _ | _ | ⟨c, _ | _, sg, sh, w⟩ | ⟨a, k⟩ | _
  case channel.capture =>
    obtain ⟨t, n, h, e⟩ := s.capture_frame c
    exact ⟨t, n, s.replies, h, e⟩
  case packed =>
    obtain ⟨t, n, h, e⟩ := State.packRun_frame (s.pickRun a k) s 0 []
    exact ⟨t, n, s.replies, h, e⟩
  case reply => exact ⟨s.channels, s.freeCells, _, s.health, rfl⟩
  case health => exact ⟨s.channels, s.freeCells, s.replies, _, rfl⟩
  all_goals exact ⟨s.channels, s.freeCells, s.replies, s.health, rfl⟩

/-! ### The frame start and the word fetch -/

theorem State.setBankState_frame (s : State) (x : BankId) (st : BankState) :
    ∃ a b, s.setBankState x st = { s with bankA := a, bankB := b } := by
  cases x
  · exact ⟨_, s.bankB, rfl⟩
  · exact ⟨s.bankA, _, rfl⟩

theorem State.retireInForce_frame (s : State) : ∃ a b, s.retireInForce = { s with bankA := a, bankB := b } := by
  unfold State.retireInForce
  split
  · exact ⟨s.bankA, s.bankB, rfl⟩
  · exact s.setBankState_frame _ _

/-- Step 6 of the frame start: bank states, pin flags, format engine, ratio with accumulator, reply queue and health
logic (R60, R63). -/
theorem State.carryOut_frame (s : State) :
    ∃ a b t x refs pend sw rn rd acc q h, s.carryOut = { s with
      bankA := a, bankB := b, channels := t
      engine := { s.engine with inForce := x, activeRefs := refs, pendingRefs := pend, pendingSwitch := sw }
      serial := { s.serial with ratioN := rn, ratioD := rd, accumulator := acc }
      replies := q, health := h } := by
  unfold State.carryOut
  split
  · exact ⟨s.bankA, s.bankB, s.channels, s.engine.inForce, s.engine.activeRefs, s.engine.pendingRefs,
      s.engine.pendingSwitch, s.serial.ratioN, s.serial.ratioD, s.serial.accumulator, s.replies, s.health, rfl⟩
  · rename_i x tag _
    obtain ⟨a, b, e⟩ := s.retireInForce_frame
    obtain ⟨a', b', e'⟩ := ({ s with bankA := a, bankB := b } : State).setBankState_frame x .active
    unfold State.installBank
    rw [e]
    dsimp only
    rw [e']
    exact ⟨_, _, _, _, _, _, _, _, _, _, _, _, rfl⟩
  · obtain ⟨a, b, e⟩ := s.retireInForce_frame
    unfold State.installBoot
    rw [e]
    exact ⟨_, _, _, _, _, _, _, _, _, _, _, _, rfl⟩

/-- The frame start work leaves the place, the word in progress, the pins, the pool, the intake link, the command queue,
the validation and the work of the last REFCLK edge (R46). -/
theorem State.frameStart_frame (s : State) :
    ∃ a b t x f k refs pend sw rn rd acc c n l la q h, s.frameStart = { s with
      bankA := a, bankB := b, channels := t
      engine := ⟨x, s.engine.place, some f, some k, sw, refs, pend⟩
      serial := { s.serial with ratioN := rn, ratioD := rd, accumulator := acc }
      timeBase := ⟨c, s.timeBase.prescaler, n, l, la, s.timeBase.edge⟩
      replies := q, health := h } := by
  have hb : ∃ rn rd acc, s.bootRatio
      = { s with serial := { s.serial with ratioN := rn, ratioD := rd, accumulator := acc } } := by
    unfold State.bootRatio
    split
    · exact ⟨_, _, _, rfl⟩
    · exact ⟨s.serial.ratioN, s.serial.ratioD, s.serial.accumulator, rfl⟩
  have ht : ∃ c n l la, s.timeBase.frameStart = ⟨c, s.timeBase.prescaler, n, l, la, s.timeBase.edge⟩ := by
    unfold TimeBase.frameStart
    split
    · exact ⟨_, _, _, _, rfl⟩
    · exact ⟨_, _, _, _, rfl⟩
  obtain ⟨rn, rd, acc, eb⟩ := hb
  obtain ⟨c, n, l, la, et⟩ := ht
  unfold State.frameStart
  rw [eb]
  dsimp only
  rw [et]
  generalize hf : nextFrameIndex _ s.engine.frameIndex = f
  generalize nextFrameCount s.engine.frameCount = k
  obtain ⟨q, h, e⟩ := State.tick_frame { s with
    engine := { s.engine with frameIndex := some f, frameCount := some k }
    serial := { s.serial with ratioN := rn, ratioD := rd, accumulator := acc }
    timeBase := ⟨c, s.timeBase.prescaler, n, l, la, s.timeBase.edge⟩ }
  rw [e]
  split
  · obtain ⟨a, b, t, x, refs, pend, sw, rn', rd', acc', q', h', e'⟩ := State.carryOut_frame { s with
      engine := { s.engine with frameIndex := some f, frameCount := some k }
      serial := { s.serial with ratioN := rn, ratioD := rd, accumulator := acc }
      timeBase := ⟨c, s.timeBase.prescaler, n, l, la, s.timeBase.edge⟩
      channels := Table.update (fun _ ch => ch.tick) s.channels
      replies := q
      health := h }
    rw [e']
    exact ⟨a, b, t, x, f, k, refs, pend, sw, rn', rd', acc', c, n, l, la, q', h', rfl⟩
  · exact ⟨s.bankA, s.bankB, _, s.engine.inForce, f, k, s.engine.activeRefs, s.engine.pendingRefs,
      s.engine.pendingSwitch, rn, rd, acc, c, n, l, la, q, h, rfl⟩

@[simp] theorem State.atWord_place (s : State) : s.atWord.engine.place = s.engine.place := by
  unfold State.atWord
  split
  · obtain ⟨_, _, _, _, _, _, _, _, _, _, _, _, _, _, _, _, _, _, e⟩ := s.frameStart_frame
    rw [e]
  · rfl

/-- What the content of a word does not change, the geometry in force among it. -/
theorem State.content_geometry (s : State) (p : Nat) (d : Slot) : (s.content p d).1.geometry = s.geometry := by
  obtain ⟨t, n, q, h, e⟩ := s.content_frame p d
  rw [e]
  rfl

/-- A word fetch with its strobe: the frame start work at place 0, the content, the word handed over (R28, R110). -/
theorem State.fetch_eq (s : State) :
    s.fetch.endStrobe
      = ((s.atWord.content s.engine.place (s.atWord.slotAt s.engine.place)).1).handedOver
          (s.atWord.content s.engine.place (s.atWord.slotAt s.engine.place)).2 := by
  have hp := s.atWord_place
  have hf : s.fetch = (fun u : State =>
      let built := u.content s.engine.place (u.slotAt s.engine.place)
      let word : OutWord := ⟨u.geometry.width, BitVec.ofNat 16 (built.2 % 2 ^ u.geometry.width)⟩
      { built.1 with
        engine := { built.1.engine with
          place := if s.engine.place + 1 < u.geometry.length then s.engine.place + 1 else 0 }
        serial := { built.1.serial with
          word := some word
          remaining := u.geometry.width - 1
          odat := bitLevel word.bits (u.geometry.width - 1)
          ofrm := if s.engine.place = 0 then .low else .high } }) s.atWord := rfl
  rw [hf]
  generalize s.atWord = u at *
  generalize hd : u.slotAt s.engine.place = d
  obtain ⟨t, n, q, h, e⟩ := u.content_frame s.engine.place d
  have hg := u.content_geometry s.engine.place d
  rw [e] at hg
  simp only [State.endStrobe, State.handedOver, hd, e, hg, hp, bitLevel]
  cases u.pins.linkMode <;> simp

end Sys2Proof.Machine
end

