-- ==== Sys2Proof/WellFormed.lean ====
section
/-! DEFINITION. Well-formedness of a command. Every operand of `Instr` is a pin level or an order, whose types hold
nothing but legal values, so there is no check a term could fail: every command is well formed. What the spec
checks of a command RECORD (codes, lengths, ranges; R6, R151) is checked by the part itself at the take and is
answered with a status, so it is behaviour and stands under Machine/. -/

namespace Sys2Proof

/-- Every command is well formed: its operands are typed, and the table gives no command bits. -/
def Instr.wf : Instr → Bool
  | .pinResetAssert _ | .pinResetRelease _ _ _ | .messageCompletion | .wordFetch | .timeCounterAdvance => true
  | .validationCompletion | .ping | .resetPartRestart | .resetPartFull | .defineChannel | .undefineChannel => true
  | .readChannel | .setFrame | .writeSlots | .writeRotation | .writePicks | .clearBank | .readBank => true
  | .switch | .stop | .setTimebase | .setTime | .readCounters | .clearCounters | .unknownCommand => true
  | .ifrmFall | .iclkRisingEdge _ | .bitStrobe | .refclkRisingEdge _ | .resetPartRefused => true

end Sys2Proof
end

