-- ==== Sys2Proof/Laws/PerInstr.lean ====
section
/-! SUPPORT. The law made for every command: it is well formed, whatever its operands, and no table word spells it
(log 14). -/

namespace Sys2Proof.Laws.AlwaysWellFormed

/-- A command is well formed, and `decodeTableWord` never answers it. -/
def Statement (i : Instr) : Prop := i.wf = true ∧ ∀ nbits w, decodeTableWord nbits w ≠ some i

theorem pinResetAssert (lmode : Level) : Statement (.pinResetAssert lmode) := ⟨rfl, fun _ _ => nofun⟩
theorem pinResetRelease (lmode adr1 adr0 : Level) : Statement (.pinResetRelease lmode adr1 adr0) := ⟨rfl, fun _ _ => nofun⟩
theorem messageCompletion : Statement .messageCompletion := ⟨rfl, fun _ _ => nofun⟩
theorem wordFetch : Statement .wordFetch := ⟨rfl, fun _ _ => nofun⟩
theorem timeCounterAdvance : Statement .timeCounterAdvance := ⟨rfl, fun _ _ => nofun⟩
theorem validationCompletion : Statement .validationCompletion := ⟨rfl, fun _ _ => nofun⟩
theorem ping : Statement .ping := ⟨rfl, fun _ _ => nofun⟩
theorem resetPartRestart : Statement .resetPartRestart := ⟨rfl, fun _ _ => nofun⟩
theorem resetPartFull : Statement .resetPartFull := ⟨rfl, fun _ _ => nofun⟩
theorem defineChannel : Statement .defineChannel := ⟨rfl, fun _ _ => nofun⟩
theorem undefineChannel : Statement .undefineChannel := ⟨rfl, fun _ _ => nofun⟩
theorem readChannel : Statement .readChannel := ⟨rfl, fun _ _ => nofun⟩
theorem setFrame : Statement .setFrame := ⟨rfl, fun _ _ => nofun⟩
theorem writeSlots : Statement .writeSlots := ⟨rfl, fun _ _ => nofun⟩
theorem writeRotation : Statement .writeRotation := ⟨rfl, fun _ _ => nofun⟩
theorem writePicks : Statement .writePicks := ⟨rfl, fun _ _ => nofun⟩
theorem clearBank : Statement .clearBank := ⟨rfl, fun _ _ => nofun⟩
theorem readBank : Statement .readBank := ⟨rfl, fun _ _ => nofun⟩
theorem switch : Statement .switch := ⟨rfl, fun _ _ => nofun⟩
theorem stop : Statement .stop := ⟨rfl, fun _ _ => nofun⟩
theorem setTimebase : Statement .setTimebase := ⟨rfl, fun _ _ => nofun⟩
theorem setTime : Statement .setTime := ⟨rfl, fun _ _ => nofun⟩
theorem readCounters : Statement .readCounters := ⟨rfl, fun _ _ => nofun⟩
theorem clearCounters : Statement .clearCounters := ⟨rfl, fun _ _ => nofun⟩
theorem unknownCommand : Statement .unknownCommand := ⟨rfl, fun _ _ => nofun⟩
theorem ifrmFall : Statement .ifrmFall := ⟨rfl, fun _ _ => nofun⟩
theorem iclkRisingEdge (idat : Level) : Statement (.iclkRisingEdge idat) := ⟨rfl, fun _ _ => nofun⟩
theorem bitStrobe : Statement .bitStrobe := ⟨rfl, fun _ _ => nofun⟩
theorem refclkRisingEdge (order : EdgeOrder) : Statement (.refclkRisingEdge order) := ⟨rfl, fun _ _ => nofun⟩
theorem resetPartRefused : Statement .resetPartRefused := ⟨rfl, fun _ _ => nofun⟩

end Sys2Proof.Laws.AlwaysWellFormed
end

