-- ==== Sys2Proof/Laws/Tables.lean ====
section
/-! SUPPORT. The laws of the canonical tables: reading after writing, the canonical form kept by every operation, and
equal contents give equal tables. -/

namespace Sys2Proof.Machine

variable {α : Type} [DecidableEq α] {d : α}

/-! ### The canonical form, one entry at a time -/

@[simp] theorem Table.wfFrom_nil (lo : Nat) : Table.wfFrom d lo [] = true := rfl

/-- The empty table, which every store holds at reset, is canonical. -/
@[simp] theorem Table.wf_nil : Table.wf d [] = true := rfl

theorem Table.wfFrom_cons_iff {lo k : Nat} {v : α} {t : Table α} :
    Table.wfFrom d lo ((k, v) :: t) = true ↔ lo ≤ k ∧ v ≠ d ∧ Table.wfFrom d (k + 1) t = true := by
  simp [Table.wfFrom, and_assoc]

theorem Table.wfFrom_mono {lo lo' : Nat} {t : Table α} (h : lo' ≤ lo) (hw : Table.wfFrom d lo t = true) :
    Table.wfFrom d lo' t = true := by
  cases t with
  | nil => rfl
  | cons e t =>
    obtain ⟨k, v⟩ := e
    rw [Table.wfFrom_cons_iff] at hw ⊢
    exact ⟨h.trans hw.1, hw.2⟩

/-- Below the least number a table lists nothing. -/
theorem Table.get_of_lt {lo i : Nat} {t : Table α} (hw : Table.wfFrom d lo t = true) (hi : i < lo) :
    Table.get d t i = d := by
  induction t generalizing lo with
  | nil => rfl
  | cons e t ih =>
    obtain ⟨k, v⟩ := e
    rw [Table.wfFrom_cons_iff] at hw
    have hk : k ≠ i := by omega
    simp [Table.get, hk, ih hw.2.2 (by omega)]

/-! ### Writing one number -/

theorem Table.wfFrom_cons {lo i : Nat} {v : α} {t : Table α} (h : lo ≤ i) (hw : Table.wfFrom d (i + 1) t = true) :
    Table.wfFrom d lo (Table.cons d i v t) = true := by
  unfold Table.cons
  split
  · exact Table.wfFrom_mono (by omega) hw
  · exact Table.wfFrom_cons_iff.2 ⟨h, ‹_›, hw⟩

theorem Table.wfFrom_put {lo i : Nat} {v : α} {t : Table α} (hw : Table.wfFrom d lo t = true) (h : lo ≤ i) :
    Table.wfFrom d lo (Table.put d t i v) = true := by
  induction t generalizing lo with
  | nil => exact Table.wfFrom_cons h rfl
  | cons e t ih =>
    obtain ⟨k, w⟩ := e
    have hw' := Table.wfFrom_cons_iff.1 hw
    unfold Table.put
    split
    · exact Table.wfFrom_cons h (Table.wfFrom_cons_iff.2 ⟨by omega, hw'.2⟩)
    · split
      · subst_vars; exact Table.wfFrom_cons h hw'.2.2
      · exact Table.wfFrom_cons_iff.2 ⟨hw'.1, hw'.2.1, ih hw'.2.2 (by omega)⟩

/-- A write keeps the canonical form. -/
theorem Table.wf_put {i : Nat} {v : α} {t : Table α} (hw : Table.wf d t = true) :
    Table.wf d (Table.put d t i v) = true := Table.wfFrom_put hw (Nat.zero_le i)

theorem Table.get_cons_self {lo i : Nat} {v : α} {t : Table α} (hw : Table.wfFrom d lo t = true) (h : i < lo) :
    Table.get d (Table.cons d i v t) i = v := by
  unfold Table.cons
  split
  · subst_vars; exact Table.get_of_lt hw h
  · simp [Table.get]

theorem Table.get_cons_ne {i j : Nat} {v : α} {t : Table α} (h : j ≠ i) :
    Table.get d (Table.cons d i v t) j = Table.get d t j := by
  unfold Table.cons
  split
  · rfl
  · simp [Table.get, Ne.symm h]

theorem Table.get_put_self {lo i : Nat} {v : α} {t : Table α} (hw : Table.wfFrom d lo t = true) :
    Table.get d (Table.put d t i v) i = v := by
  induction t generalizing lo with
  | nil => exact Table.get_cons_self (lo := i + 1) rfl (by omega)
  | cons e t ih =>
    obtain ⟨k, w⟩ := e
    have hw' := Table.wfFrom_cons_iff.1 hw
    unfold Table.put
    split
    · exact Table.get_cons_self (lo := i + 1) (Table.wfFrom_cons_iff.2 ⟨by omega, hw'.2⟩) (by omega)
    · split
      · subst_vars; exact Table.get_cons_self hw'.2.2 (by omega)
      · have : k ≠ i := by omega
        simp [Table.get, this, ih hw'.2.2]

/-- Another number keeps its content. -/
theorem Table.get_put_ne {i j : Nat} {v : α} {t : Table α} (h : j ≠ i) :
    Table.get d (Table.put d t i v) j = Table.get d t j := by
  induction t with
  | nil => exact Table.get_cons_ne h
  | cons e t ih =>
    obtain ⟨k, w⟩ := e
    unfold Table.put
    split
    · exact Table.get_cons_ne h
    · split
      · subst_vars; simp [Table.get_cons_ne h, Table.get, Ne.symm h]
      · simp [Table.get, ih]

/-- Reading after a write. -/
theorem Table.get_put {i j : Nat} {v : α} {t : Table α} (hw : Table.wf d t = true) :
    Table.get d (Table.put d t i v) j = if j = i then v else Table.get d t j := by
  split
  · subst_vars; exact Table.get_put_self hw
  · exact Table.get_put_ne ‹_›

/-! ### Writing a run -/

/-- A run of writes keeps the canonical form. -/
theorem Table.wf_putAll {i : Nat} {vs : List α} {t : Table α} (hw : Table.wf d t = true) :
    Table.wf d (Table.putAll d t i vs) = true := by
  induction vs generalizing t i with
  | nil => exact hw
  | cons v vs ih => exact ih (Table.wf_put hw)

/-- Reading after a run of writes. -/
theorem Table.get_putAll {i j : Nat} {vs : List α} {t : Table α} (hw : Table.wf d t = true) :
    Table.get d (Table.putAll d t i vs) j
      = if j < i then Table.get d t j else vs.getD (j - i) (Table.get d t j) := by
  induction vs generalizing t i with
  | nil => simp [Table.putAll]
  | cons v vs ih =>
    rw [Table.putAll, ih (Table.wf_put hw), Table.get_put hw]
    rcases lt_trichotomy j i with h | h | h
    · simp [h, show j < i + 1 by omega, show j ≠ i by omega]
    · simp [h]
    · obtain ⟨k, rfl⟩ : ∃ k, j = i + 1 + k := ⟨j - (i + 1), by omega⟩
      have h1 : i + 1 + k - i = k + 1 := by omega
      simp [show ¬ i + 1 + k < i by omega, show ¬ i + 1 + k ≤ i by omega, show i + 1 + k ≠ i by omega, h1]

omit [DecidableEq α] in
/-- A run of reads. -/
theorem Table.run_eq (t : Table α) (i n : Nat) :
    Table.run d t i n = (List.range n).map fun k => Table.get d t (i + k) := by
  induction n generalizing i with
  | zero => rfl
  | succ n ih =>
    rw [Table.run, ih, List.range_succ_eq_map]
    simp [Function.comp_def, Nat.add_assoc, Nat.add_comm 1]

omit [DecidableEq α] in
@[simp] theorem Table.length_run (t : Table α) (i n : Nat) : (Table.run d t i n).length = n := by
  induction n generalizing i with
  | zero => rfl
  | succ n ih => simp [Table.run, ih]

/-! ### Changing every entry -/

theorem Table.wfFrom_update {lo : Nat} {f : Nat → α → α} {t : Table α} (hw : Table.wfFrom d lo t = true)
    (hf : ∀ e ∈ t, f e.1 e.2 ≠ d) : Table.wfFrom d lo (Table.update f t) = true := by
  induction t generalizing lo with
  | nil => rfl
  | cons e t ih =>
    obtain ⟨k, v⟩ := e
    have hw' := Table.wfFrom_cons_iff.1 hw
    exact Table.wfFrom_cons_iff.2 ⟨hw'.1, hf (k, v) (by simp), ih hw'.2.2 fun e he => hf e (by simp [he])⟩

/-- An update that turns no entry into what is not listed keeps the canonical form. -/
theorem Table.wf_update {f : Nat → α → α} {t : Table α} (hw : Table.wf d t = true)
    (hf : ∀ e ∈ t, f e.1 e.2 ≠ d) : Table.wf d (Table.update f t) = true := Table.wfFrom_update hw hf

omit [DecidableEq α] in
/-- Reading after an update that leaves what is not listed as it is. -/
theorem Table.get_update {f : Nat → α → α} {t : Table α} (i : Nat) (hf : f i d = d) :
    Table.get d (Table.update f t) i = f i (Table.get d t i) := by
  induction t with
  | nil => simp [Table.update, Table.get, hf]
  | cons e t ih =>
    obtain ⟨k, v⟩ := e
    by_cases h : k = i
    · subst h; simp [Table.update, Table.get]
    · simpa [Table.update, Table.get, h] using ih

/-! ### Entries and contents -/

theorem Table.mem_iff_from {lo k : Nat} {v : α} {t : Table α} (hw : Table.wfFrom d lo t = true) :
    (k, v) ∈ t ↔ v ≠ d ∧ Table.get d t k = v := by
  induction t generalizing lo with
  | nil => simp [Table.get, eq_comm]
  | cons e t ih =>
    obtain ⟨k', w⟩ := e
    have hw' := Table.wfFrom_cons_iff.1 hw
    by_cases h : k' = k
    · subst h
      have hnot : (k', v) ∉ t := by
        intro hm
        have h2 := (ih hw'.2.2).1 hm
        exact h2.1 (h2.2 ▸ Table.get_of_lt hw'.2.2 (by omega))
      simp only [List.mem_cons, Prod.mk.injEq, true_and, hnot, or_false, Table.get, if_true]
      constructor
      · rintro rfl; exact ⟨hw'.2.1, rfl⟩
      · rintro ⟨-, h2⟩; exact h2.symm
    · simp [Table.get, h, Ne.symm h, ih hw'.2.2]

/-- An entry is a number with its content, where the content is not that of an unlisted number. -/
theorem Table.mem_iff {k : Nat} {v : α} {t : Table α} (hw : Table.wf d t = true) :
    (k, v) ∈ t ↔ v ≠ d ∧ Table.get d t k = v := Table.mem_iff_from hw

omit [DecidableEq α] in
/-- What a table holds at a number is listed there, or is what every unlisted number holds. -/
theorem Table.get_mem_or (t : Table α) (k : Nat) : (k, Table.get d t k) ∈ t ∨ Table.get d t k = d := by
  induction t with
  | nil => simp [Table.get]
  | cons e t ih =>
    obtain ⟨k', w⟩ := e
    by_cases h : k' = k
    · simp [Table.get, h]
    · rcases ih with h2 | h2 <;> simp [Table.get, h, h2]

theorem Table.ext_from {lo : Nat} {t u : Table α} (ht : Table.wfFrom d lo t = true) (hu : Table.wfFrom d lo u = true)
    (h : ∀ k, Table.get d t k = Table.get d u k) : t = u := by
  induction t generalizing lo u with
  | nil =>
    cases u with
    | nil => rfl
    | cons e u =>
      obtain ⟨k, v⟩ := e
      have := h k
      simp [Table.get] at this
      exact absurd this.symm (Table.wfFrom_cons_iff.1 hu).2.1
  | cons e t ih =>
    obtain ⟨k, v⟩ := e
    have ht' := Table.wfFrom_cons_iff.1 ht
    cases u with
    | nil =>
      have := h k
      simp [Table.get] at this
      exact absurd this ht'.2.1
    | cons e' u =>
      obtain ⟨k', v'⟩ := e'
      have hu' := Table.wfFrom_cons_iff.1 hu
      have hk : k = k' := by
        rcases lt_trichotomy k k' with hlt | heq | hlt
        · have h1 := h k
          rw [Table.get_of_lt (Table.wfFrom_cons_iff.2 ⟨le_refl k', hu'.2⟩) hlt] at h1
          simp [Table.get] at h1
          exact absurd h1 ht'.2.1
        · exact heq
        · have h1 := h k'
          rw [Table.get_of_lt (Table.wfFrom_cons_iff.2 ⟨le_refl k, ht'.2⟩) hlt] at h1
          simp [Table.get] at h1
          exact absurd h1.symm hu'.2.1
      subst hk
      have hv : v = v' := by simpa [Table.get] using h k
      subst hv
      have htu : t = u := by
        refine ih ht'.2.2 hu'.2.2 fun j => ?_
        by_cases hj : k = j
        · subst hj
          rw [Table.get_of_lt ht'.2.2 (by omega), Table.get_of_lt hu'.2.2 (by omega)]
        · simpa [Table.get, hj] using h j
      rw [htu]

/-- Canonical tables with equal contents are equal. -/
theorem Table.ext {t u : Table α} (ht : Table.wf d t = true) (hu : Table.wf d u = true)
    (h : ∀ k, Table.get d t k = Table.get d u k) : t = u := Table.ext_from ht hu h

end Sys2Proof.Machine
end

