-- ==== Sys2Proof/Laws/Takes.lean ====
section
/-! SUPPORT. Everything a take can do: bytes and fields, the catalogue, the reply queue at a take, and the outcome of a
command that is taken. -/

namespace Sys2Proof.Machine

/-! ### Bytes and fields (R170) -/

@[simp] theorem length_bytesOf (k n : Nat) : (bytesOf k n).length = k := by
  induction k with
  | zero => rfl
  | succ k ih => simp [bytesOf, ih]

theorem natOfBytes_append_one (bs : List Byte) (b : Byte) :
    natOfBytes (bs ++ [b]) = natOfBytes bs * 256 + b.toNat := by
  simp [natOfBytes]

theorem natOfBytes_cons (b : Byte) (bs : List Byte) :
    natOfBytes (b :: bs) = b.toNat * 256 ^ bs.length + natOfBytes bs := by
  induction bs using List.reverseRecOn with
  | nil => simp [natOfBytes]
  | append_singleton bs a ih =>
    rw [← List.cons_append, natOfBytes_append_one, natOfBytes_append_one, ih]
    simp [pow_succ]; ring

/-- The bytes of a number spell the number. -/
theorem natOfBytes_bytesOf (k n : Nat) : natOfBytes (bytesOf k n) = n % 256 ^ k := by
  induction k with
  | zero => simp [bytesOf, natOfBytes, Nat.mod_one]
  | succ k ih =>
    rw [bytesOf, natOfBytes_cons, ih, length_bytesOf, BitVec.toNat_ofNat]
    have h := Nat.mod_mul (x := n) (a := 256 ^ k) (b := 256)
    rw [show (256 : Nat) ^ (k + 1) = 256 ^ k * 256 from pow_succ _ _, h]
    change n / 256 ^ k % 256 * 256 ^ k + n % 256 ^ k = _
    ring

@[simp] theorem byteAt_cons_zero (b : Byte) (bs : List Byte) : byteAt (b :: bs) 0 = b := rfl
@[simp] theorem byteAt_cons_succ (b : Byte) (bs : List Byte) (i : Nat) : byteAt (b :: bs) (i + 1) = byteAt bs i := by
  simp [byteAt]

@[simp] theorem fieldAt_cons_succ (b : Byte) (bs : List Byte) (off len : Nat) :
    fieldAt (b :: bs) (off + 1) len = fieldAt bs off len := rfl

/-- The field of `k` bytes in front of others. -/
theorem fieldAt_bytesOf_append (k n : Nat) (rest : List Byte) :
    fieldAt (bytesOf k n ++ rest) 0 k = n % 256 ^ k := by
  rw [← natOfBytes_bytesOf, fieldAt, List.drop_zero, List.take_append_of_le_length (by simp)]
  rw [List.take_of_length_le (by simp)]

theorem fieldAt_bytesOf (k n : Nat) : fieldAt (bytesOf k n) 0 k = n % 256 ^ k := by
  simpa using fieldAt_bytesOf_append k n []

/-! ### The catalogue (R153) -/

@[simp] theorem commandOf_code (c : Command) : commandOf c.code = some c := by cases c <;> rfl

theorem commandOf_eq_some {b : Byte} {c : Command} : commandOf b = some c ↔ b = c.code := by
  constructor
  · intro h
    have := List.find?_some h
    exact (beq_iff_eq.1 this).symm
  · rintro rfl; simp

/-- A command that a row of its own takes is not RESET_PART, and reserves its maximum reply size (R150). -/
theorem replyNeed_of_code {r : CmdRecord} {c : Command} (h : r.code = c.code) (hc : c ≠ .resetPart) :
    replyNeed r = some c.maxReply := by
  have h1 : resetOption r = none := by
    unfold resetOption
    have : r.code ≠ Command.resetPart.code := by rw [h]; cases c <;> first | decide | exact absurd rfl hc
    simp [this]
  have h2 : commandOf r.code = some c := by rw [h]; exact commandOf_code c
  simp [replyNeed, h1, h2]

/-! ### The reply queue at a take (R65, R125, R126) -/

/-- What `takeable` answers. -/
theorem State.takeable_some {s : State} {r : CmdRecord} (h : s.takeable = some r) :
    s.pins.resetn = .high ∧ s.validation = none ∧ (∃ rest, s.commands = r :: rest)
      ∧ (∀ n, replyNeed r = some n → 1 ≤ s.replies.freePlaces ∧ n ≤ s.replies.freeBytes) := by
  unfold State.takeable at h
  split at h
  · simp at h
  · rename_i h1
    have h1' : s.pins.resetn = .high ∧ s.validation = none := by
      constructor
      · cases hr : s.pins.resetn <;> simp_all
      · cases hv : s.validation <;> simp_all
    split at h
    · simp at h
    · split at h
      · simp only [Option.some.injEq] at h
        subst h
        exact ⟨h1'.1, h1'.2, ⟨_, ‹_›⟩, by simp_all⟩
      · split at h
        · simp only [Option.some.injEq] at h
          subst h
          refine ⟨h1'.1, h1'.2, ⟨_, ‹_›⟩, ?_⟩
          intro n hn
          simp_all
        · simp at h

/-- The reservation made at a take is the one that its answer removes: what stays is what stood before. An equal
reservation that was there already has the same tag, code and size. -/
theorem release_reserve {q : ReplyQueue} {tag code : Byte} {n : Nat}
    (h : ∀ e ∈ q.reservations, e.tag = tag → e.code = code → e = ⟨tag, code, n⟩)
    (h1 : q.reservations.length ≤ 1) :
    (q.reserve ⟨tag, code, n⟩).release tag code = q := by
  obtain ⟨records, position, reservations⟩ := q
  simp only [ReplyQueue.reserve, ReplyQueue.release]
  congr 1
  match reservations, h, h1 with
  | [], _, _ => simp
  | [e], h, _ =>
    by_cases he : e.tag = tag ∧ e.code = code
    · have := h e (by simp) he.1 he.2
      subst this
      simp
    · have : (e.tag == tag && e.code == code) = false := by
        simp only [Bool.and_eq_false_iff, beq_eq_false_iff_ne]
        tauto
      simp [this]

/-- With the processor FREE, at most one reservation is held, that of the pending switch or stop (R65). -/
theorem State.owed_of_free {s : State} (hv : s.validation = none) :
    s.owed.length ≤ 1 ∧ ∀ e ∈ s.owed, (e.code = 0x30 ∨ e.code = 0x31) ∧ e.size = 9 := by
  unfold State.owed
  rw [hv]
  rcases s.engine.pendingSwitch with _ | ⟨_ | x, tag⟩ <;> simp [Command.code]

/-- The answer at the take of a command of the catalogue: the record's reservation is gone again. -/
theorem State.release_beginTake {s : State} {r : CmdRecord} (hq : s.ReplyInv) (ht : s.takeable = some r)
    {n : Nat} (hn : replyNeed r = some n) :
    (s.beginTake r).replies.release r.tag r.code = s.replies := by
  have hv := (State.takeable_some ht).2.1
  have hb : (s.beginTake r).replies = s.replies.reserve ⟨r.tag, r.code, n⟩ := by
    simp [State.beginTake, hn]
  rw [hb]
  have ho := State.owed_of_free hv
  apply release_reserve
  · intro e he htag hcode
    rw [hq.1] at he
    obtain ⟨hc, hs⟩ := ho.2 e he
    have hn9 : n = 9 := by
      rw [hcode] at hc
      rcases hc with hc | hc
      · rw [replyNeed_of_code (c := .switch) hc (by decide)] at hn
        simpa [Command.maxReply] using hn.symm
      · rw [replyNeed_of_code (c := .stop) hc (by decide)] at hn
        simpa [Command.maxReply] using hn.symm
    subst hn9
    cases e
    simp_all
  · rw [hq.1]; exact ho.1

/-- An immediate reply at a take, whatever else the take has changed (`u`): the record joins the reply queue, and the
reservations stand as before the take (R126). -/
theorem State.reply_of_take {s u : State} {r : CmdRecord} (hq : s.ReplyInv) (ht : s.takeable = some r)
    {n : Nat} (hn : replyNeed r = some n) {st : Status} {payload : List Byte}
    (hu : u.replies = (s.beginTake r).replies) :
    u.reply r st payload = { u with
      replies := { s.replies with
        records := s.replies.records ++ [replyRecord r.tag r.code st.code payload] } } := by
  simp only [State.reply, State.convert, hu, State.release_beginTake hq ht hn, ReplyQueue.append]

/-- A command answered at its take that changes the two queues alone. -/
theorem State.answered_of_take {s : State} {r : CmdRecord} (hq : s.ReplyInv) (ht : s.takeable = some r)
    {n : Nat} (hn : replyNeed r = some n) (st : Status) (payload : List Byte) :
    (s.beginTake r).reply r st payload = s.answered r st.code payload := by
  rw [State.reply_of_take hq ht hn rfl]
  simp [State.answered, State.beginTake, hn]

/-! ### The outcome of a take (R150, R151) -/

/-- A take of the sort wanted is carried out on the state with the record gone and its space reserved. -/
theorem State.take_next {s : State} {r : CmdRecord} (ht : s.takeable = some r) {want : CmdRecord → Bool}
    (hw : want r = true) (act : CmdRecord → State → State) :
    s.take want act = .next (act r (s.beginTake r)) := by
  simp [State.take, ht, hw]

/-- A command of the right length is handed to its owner block (R151 step 5). -/
theorem State.takeCommand_next {s : State} {r : CmdRecord} (ht : s.takeable = some r) {c : Command}
    (hc : r.code = c.code) (hl : c.accepts r.args.length = true) (owner : CmdRecord → State → State) :
    s.takeCommand c owner = .next (owner r (s.beginTake r)) := by
  rw [State.takeCommand, State.take_next ht (by simp [hc])]
  simp [hl]

/-- A command of the wrong length is answered BAD_LENGTH (R151 step 4). -/
theorem State.takeCommand_badLength {s : State} {r : CmdRecord} (ht : s.takeable = some r) {c : Command}
    (hc : r.code = c.code) (hl : c.accepts r.args.length = false) (owner : CmdRecord → State → State) :
    s.takeCommand c owner = .next ((s.beginTake r).reply r .badLength []) := by
  rw [State.takeCommand, State.take_next ht (by simp [hc])]
  simp [hl]

/-- A take answers a next state, whatever the record: the take of the record, or the state unchanged. -/
theorem State.take_cases (s : State) (want : CmdRecord → Bool) (act : CmdRecord → State → State) :
    (∃ r, s.takeable = some r ∧ want r = true ∧ s.take want act = .next (act r (s.beginTake r)))
      ∨ s.take want act = .next s := by
  unfold State.take
  cases h : s.takeable with
  | none => exact .inr rfl
  | some r => by_cases hw : want r = true <;> simp [hw]

/-- The owner block's part of each catalogued command that has a row of its own (R153). -/
def Command.owner : Command → CmdRecord → State → State
  | .ping => State.ping
  | .resetPart => fun _ s => s
  | .defineChannel => State.defineChannel
  | .undefineChannel => State.undefineChannel
  | .readChannel => State.readChannel
  | .setFrame => State.setFrame
  | .writeSlots => State.writeSlots
  | .writeRotation => State.writeRotation
  | .writePicks => State.writePicks
  | .clearBank => State.clearBank
  | .readBank => State.readBank
  | .switch => State.switch
  | .stop => State.stop
  | .setTimebase => State.setTimebase
  | .setTime => State.setTime
  | .readCounters => State.readCounters
  | .clearCounters => State.clearCounters

/-- Every row that takes a catalogued command is the take of that command by its owner block (R151, R153). -/
theorem exec_row {c : Command} {i : Instr} (h : c.row = some i) (s : State) :
    exec i s = s.takeCommand c c.owner := by
  cases c <;> simp only [Command.row, Option.some.injEq, reduceCtorEq] at h <;> subst h <;> rfl

/-- A catalogued command of the right length, taken: its owner block acts on the state with the record gone and its
reply space reserved. -/
theorem exec_of_take {c : Command} {i : Instr} (h : c.row = some i) {s : State} {r : CmdRecord}
    (ht : s.takeable = some r) (hc : r.code = c.code) (hl : c.accepts r.args.length = true) :
    exec i s = .next (c.owner r (s.beginTake r)) := by
  rw [exec_row h, State.takeCommand_next ht hc hl]

/-- The record of a channel is not touched by the start of a take. -/
@[simp] theorem State.beginTake_channel (s : State) (r : CmdRecord) (c : Nat) :
    (s.beginTake r).channel c = s.channel c := by
  simp [State.channel]

/-- A bank is not touched by the start of a take. -/
@[simp] theorem State.beginTake_bank (s : State) (r : CmdRecord) (x : BankId) : (s.beginTake r).bank x = s.bank x := by
  cases x <;> simp [State.bank]

/-! ### A step -/

/-- A step with a command at the front of the queue. -/
theorem step_cons (c : Instr) (rest : List Instr) {s : State} (h : s.pending = c :: rest) :
    step s = exec c { s with pending := rest } := by
  simp [step, h]

end Sys2Proof.Machine
end

