-- ==== Sys2Proof/Laws/Validation.lean ====
section
/-! SUPPORT. Validation, period by period: what is left of it falls by one period at least at each, and nothing that a
strobe does reaches it. -/

namespace Sys2Proof.Machine

/-! ### The periods left (R16) -/

theorem Progress.periodsLeft_eq_zero (p : Progress) (b : Bank) : p.periodsLeft b = 0 ↔ p.ended = true := by
  rcases p with (_ | _ | _ | _) | _ | _ | _ <;> simp [Progress.periodsLeft, Progress.ended]

theorem State.nextProgress_of_ended (s : State) (b : Bank) (p : Progress) (h : p.ended = true) :
    s.nextProgress b p = p := by
  cases p <;> first | rfl | cases h

/-- One period of a validation that has not ended leaves less of it, whatever the rest of the part holds. -/
theorem State.nextProgress_periodsLeft (s : State) (b : Bank) (p : Progress) (hb : b.geometryOk = true)
    (h : p.ended = false) : (s.nextProgress b p).periodsLeft b < p.periodsLeft b := by
  have hg : 4 ≤ (b.geometry.getD bootGeometry).length ∧ 1 ≤ (b.geometry.getD bootGeometry).depth := by
    unfold Bank.geometryOk at hb
    split at hb
    · rename_i hn; rw [hn]; decide
    · rename_i g hs
      rw [hs]
      simp only [Bool.and_eq_true, decide_eq_true_eq] at hb
      exact ⟨hb.1.1.1.2, hb.1.2⟩
  generalize hgd : b.geometry.getD bootGeometry = g at hg
  have first : (g.depth - (0 + 1)) * g.length + g.length = g.depth * g.length := by
    rw [← Nat.succ_mul]; congr 1; omega
  rcases p with t | ⟨f, place, captured, refs⟩ | _ | _
  · cases t <;> simp only [State.nextProgress] <;> split <;> simp only [Progress.periodsLeft, hgd] <;> omega
  · simp only [State.nextProgress, hgd]
    split
    · simp only [Progress.periodsLeft]; omega
    · split
      · simp only [Progress.periodsLeft, hgd]; omega
      · split
        · rename_i hf
          have : (g.depth - (f + 1 + 1)) * g.length + g.length = (g.depth - (f + 1)) * g.length := by
            rw [← Nat.succ_mul]; congr 1; omega
          simp only [Progress.periodsLeft, hgd]; omega
        · simp only [Progress.periodsLeft]; omega
  · cases h
  · cases h

/-! ### Banks under the work of an edge: the state may change, the contents do not (R13) -/

theorem State.setBankState_bank (s : State) (x y : BankId) (st : BankState) :
    ∃ st', (s.setBankState x st).bank y = { s.bank y with state := st' } := by
  cases x <;> cases y <;> exact ⟨_, rfl⟩

theorem State.retireInForce_bank (s : State) (y : BankId) :
    ∃ st, s.retireInForce.bank y = { s.bank y with state := st } := by
  unfold State.retireInForce
  split
  · exact ⟨_, rfl⟩
  · exact s.setBankState_bank _ y _

theorem State.carryOut_bank (s : State) (y : BankId) : ∃ st, s.carryOut.bank y = { s.bank y with state := st } := by
  obtain ⟨st, e⟩ := s.retireInForce_bank y
  unfold State.carryOut
  split
  · exact ⟨_, rfl⟩
  · rename_i x _ _
    obtain ⟨st', e'⟩ := s.retireInForce.setBankState_bank x y .active
    exact ⟨st', e'.trans (by rw [e])⟩
  · exact ⟨st, e⟩

theorem State.bank_eq_of (s t : State) (y : BankId) (ha : t.bankA = s.bankA) (hb : t.bankB = s.bankB) :
    t.bank y = s.bank y := by
  cases y <;> assumption

theorem State.tick_bank (s : State) (y : BankId) : s.tick.bank y = s.bank y := by
  obtain ⟨q, h, e⟩ := s.tick_frame
  exact s.bank_eq_of _ y (by rw [e]) (by rw [e])

theorem State.bootRatio_bank (s : State) (y : BankId) : s.bootRatio.bank y = s.bank y := by
  unfold State.bootRatio
  split <;> rfl

theorem State.frameStart_bank (s : State) (y : BankId) :
    ∃ st, s.frameStart.bank y = { s.bank y with state := st } := by
  unfold State.frameStart
  dsimp only
  generalize hu : ({ s.bootRatio with
    engine := _, timeBase := _ } : State) = u
  have hy : u.tick.bank y = s.bank y := by rw [State.tick_bank, ← hu]; exact s.bootRatio_bank y
  split
  · obtain ⟨st, e⟩ := u.tick.carryOut_bank y
    exact ⟨st, by rw [e, hy]⟩
  · exact ⟨(s.bank y).state, hy⟩

theorem State.fetch_bank (s : State) (y : BankId) : ∃ st, s.fetch.bank y = { s.bank y with state := st } := by
  have hc : ∀ u : State, ∀ p d, (u.content p d).1.bank y = u.bank y := by
    intro u p d
    obtain ⟨t, n, q, h, e⟩ := u.content_frame p d
    exact u.bank_eq_of _ y (by rw [e]) (by rw [e])
  unfold State.fetch
  dsimp only
  split
  · obtain ⟨st, e⟩ := s.frameStart_bank y
    exact ⟨st, (hc s.frameStart _ _).trans e⟩
  · exact ⟨(s.bank y).state, hc s _ _⟩

theorem State.strobe_bank (s : State) (y : BankId) : ∃ st, s.strobe.bank y = { s.bank y with state := st } := by
  unfold State.strobe
  split
  · split
    · exact s.fetch_bank y
    · exact ⟨_, rfl⟩
  · exact s.fetch_bank y

/-! ### A validation in progress under the work of an edge (R16) -/

@[simp] theorem State.strobe_validation (s : State) : s.strobe.validation = s.validation := by
  have hf : s.fetch.validation = s.validation := by
    have hc : ∀ u : State, ∀ p d, (u.content p d).1.validation = u.validation := by
      intro u p d
      obtain ⟨t, n, q, h, e⟩ := u.content_frame p d
      rw [e]
    unfold State.fetch
    dsimp only
    split
    · obtain ⟨_, _, _, _, _, _, _, _, _, _, _, _, _, _, _, _, _, _, e⟩ := s.frameStart_frame
      exact (hc s.frameStart _ _).trans (by rw [e])
    · exact hc s _ _
  unfold State.strobe
  split
  · split
    · exact hf
    · rfl
  · exact hf

/-- A validation that has not ended is not completed. -/
theorem State.completeValidation_of_running (s : State) (v : Validation) (hv : s.validation = some v)
    (h : v.progress.ended = false) : s.completeValidation = s := by
  unfold State.completeValidation
  rw [hv]
  dsimp only
  split
  · rename_i e; rw [e] at h; cases h
  · rename_i e; rw [e] at h; cases h
  · rfl
  · rfl

/-- What an earlier edge left is finished without reaching a validation that has not ended, nor a bank's contents. -/
theorem State.finishEdge_of_running (s : State) (v : Validation) (hv : s.validation = some v)
    (h : v.progress.ended = false) :
    s.finishEdge.validation = some v ∧ ∀ y, ∃ st, s.finishEdge.bank y = { s.bank y with state := st } := by
  unfold State.finishEdge
  rw [s.completeValidation_of_running v hv h]
  dsimp only
  split
  · exact ⟨(State.strobe_validation s.advanceTime).trans hv, fun y => State.strobe_bank s.advanceTime y⟩
  · exact ⟨hv, fun y => ⟨_, rfl⟩⟩

end Sys2Proof.Machine
end

