-- ==== Sys2Proof/Tests/Slice0.lean ====
section
/-! SUPPORT. The sitting's own tests: the worked examples of the spec, and for every statement with hypotheses a state
and operands that meet them, clause by clause at the boundaries. -/

namespace Sys2Proof.Tests

open Machine

-- One test at a time: many kernel evaluations at once need more threads than a build allows.
set_option Elab.async false

/-! ### Small states -/

/-- A part released in MASTER mode with node address 2, READY removed. -/
def idle : State := { State.reset.releaseReset .high .high .low with replies := .empty }

/-- The same part in FOLLOWER mode. -/
def idleFollower : State := { State.reset.releaseReset .low .high .low with replies := .empty }

/-- A record with tag 7. -/
def record (code : Byte) (args : List Byte) : CmdRecord := ⟨7, code, args⟩

/-- A state with one record in its command queue. -/
def asked (s : State) (code : Byte) (args : List Byte) : State := { s with commands := [record code args] }

/-- A LATEST channel with stale limit 1, notify on and the sequence check on. -/
def latest (freshness : Freshness) (age : Nat) : Channel :=
  { Channel.blank with
    keeping := .latest ⟨freshness, age, 1, .fill, true⟩
    fill := 0x00DEAD, seqCheck := true, lastSeq := some 10
    latestCell := if freshness = .never then 0x00DEAD else 0xFA7C41, holdCell := 0xFA7C41 }

/-- A QUEUED channel with depth limit 2. -/
def queued (policy : OverflowPolicy) (queue : List Sample) : Channel :=
  { Channel.blank with keeping := .queued ⟨2, policy, queue⟩, fill := 0x000F11 }

/-- A bank whose template holds REPLY at place 0 and the descriptor given at places 1 to 3, with W = 16, F = 4, C = 2. -/
def bankWith (d : Slot) : Bank :=
  ⟨some ⟨16, 4, 2, 0xABCD, 1, 64⟩, [(0, .reply), (1, d), (2, d), (3, d)],
    [(3, [.const 5, .fill])], [(0, .one), (1, .channelBit 1 0 .capture), (2, .channelBit 1 6 .capture),
      (3, .channelBit 1 6 .held), (4, .channelBit 9 0 .capture), (5, .channelBit 2 0 .capture)], .editable⟩

/-- A FOLLOWER part in RUN under bank A at place 1 of frame 1, about to fetch the descriptor given. -/
def emits (d : Slot) (ch : Channel) : State :=
  { idleFollower with
    bankA := { bankWith d with state := .active }
    channels := [(1, ch)]
    freeCells := 2048 - ch.queue.length
    engine := ⟨.bank .a, 1, some 1, some 0x1001, none, [], []⟩
    timeBase := { TimeBase.reset with latch := 0x123456789ABC }
    serial := { idleFollower.serial with word := some ⟨16, 0⟩ } }

/-- The same part about to begin a frame in boot with something pending. -/
def atBoundary (inForce : Format) (target : PendingSwitch) : State :=
  { idleFollower with
    bankA := { bankWith .fill with state := if inForce = .bank .a then .active else .editable }
    bankB := { bankWith .fill with state := if target.target = .bank .b then .pending else .editable }
    engine := ⟨inForce, 0, some (if inForce = .boot then 0 else 1), some 8, some target, [], []⟩
    serial := { idleFollower.serial with word := some ⟨16, 0⟩ }
    replies := ⟨[], 0, [⟨target.tag, if target.target = .boot then 0x31 else 0x30, 9⟩]⟩ }

/-- The word that a command leaves in the serializer. -/
def wordAfter (a : Answer) : Option OutWord :=
  match a with
  | .next t => t.serial.word
  | .fault _ | .refused _ => none

/-- A state in which one reception stands as given, IFRM low. -/
def receiving (buffer : List Byte) (bits : List Bool) : State :=
  { idle with pins := { idle.pins with ifrm := .low }, intake := ⟨true, buffer, bits, false⟩ }

/-- A message of a kind with its check sum, for the node address given. -/
def message (kind address : Nat) (body : List Byte) : List Byte :=
  let m := [BitVec.ofNat 8 (kind * 16 + address * 4), BitVec.ofNat 8 body.length] ++ body
  m ++ bytesOf 2 (crc m).toNat

/-! ### Well-formedness: every command is well formed, so there is no ill-formed term to refuse -/

theorem test_every_command_well_formed (i : Instr) : i.wf = true := by cases i <;> rfl

/-! ### Worked examples of the spec -/

/-- 10: the check sum of the nine bytes 0x31 to 0x39 (R164). -/
theorem test_crc_example : crc [0x31, 0x32, 0x33, 0x34, 0x35, 0x36, 0x37, 0x38, 0x39] = 0x29B1 := by decide +kernel

/-- 11.6: the READY record after a pin reset. -/
theorem test_ready_record : (State.reset.releaseReset .high .high .low).replies.records
    = [[0x0B, 0x00, 0x81, 0x80, 0x01, 0x72, 0x08, 0x12, 0x02, 0x01, 0x64]] := by decide +kernel

/-- 11.4: the encoding of a CHANNEL descriptor (R173). -/
theorem test_channel_encoding :
    decodeSlot [0x08, 0x00, 0x1E, 0x03, 0x0C, 0x0C] = some (.channel 30 .held true 12 12)
      ∧ encodeSlot (.channel 30 .capture false 12 12) = [0x08, 0x00, 0x1E, 0x00, 0x0C, 0x0C] := by
  repeat' apply And.intro
  all_goals decide +kernel

/-- R35: 0xFA7C41 with shift 12 and width 12, signed and unsigned, in a 16-bit word. -/
theorem test_signed_field :
    wordAfter (exec .wordFetch (emits (.channel 1 .capture true 12 12) (latest .fresh 0))) = some ⟨16, 0xFFA7⟩
      ∧ wordAfter (exec .wordFetch (emits (.channel 1 .held false 12 12) (latest .fresh 0))) = some ⟨16, 0x0FA7⟩ := by
  repeat' apply And.intro
  all_goals decide +kernel

/-- R30: the fill word. -/
theorem test_fill_word : wordAfter (exec .wordFetch (emits .fill .blank)) = some ⟨16, 0xABCD⟩ := by decide +kernel

/-- R52: boot place 0. -/
theorem test_boot_word : wordAfter (exec .wordFetch idleFollower) = some ⟨16, 0x5B1E⟩ := by decide +kernel

/-- R112: N = 3 and D = 200 make three strobes in 200 edges, the first after 67. -/
theorem test_pacer_example :
    let z := { Serializer.reset .high with ratioN := 3, ratioD := 200 }
    z.strobesIn 66 = 0 ∧ z.strobesIn 67 = 1 ∧ z.strobesIn 134 = 2 ∧ z.strobesIn 200 = 3 := by
  repeat' apply And.intro
  all_goals decide +kernel

/-- IRDY falls at the eighth record and is low while RESETN is asserted. -/
theorem test_irdy :
    ({ idle with commands := List.replicate 7 (record 0 []) } : State).irdy = .high
    ∧ ({ idle with commands := List.replicate 8 (record 0 []) } : State).irdy = .low ∧ State.reset.irdy = .low := by
  repeat' apply And.intro
  all_goals decide +kernel

/-- R128: a record whose first four bytes sum to 0x1C3 has CHECK 0x3D. -/
theorem test_check_byte : checkByte [0xFF, 0xC4, 0x00, 0x00] = 0x3D := by decide +kernel

/-! ### Hypotheses met: pins and intake -/

theorem witness_StepRunsTheFrontCommand : State.reset.pending = [] := rfl

theorem witness_ReleaseCapturesStraps :
    (State.reset.pins.resetn = .low ∧ State.reset.ResetHeld) ∧ idle.pins.resetn = .high := by
  repeat' apply And.intro
  all_goals decide +kernel

theorem witness_IntakeLines_fall :
    (idle.pins.ifrm = .high ∧ idle.pins.resetn = .high ∧ idle.intake.receiving = false)
    ∧ (State.reset.pins.ifrm = .high ∧ State.reset.pins.resetn = .low)
    ∧ (receiving [] []).pins.ifrm = .low := by
  repeat' apply And.intro
  all_goals decide +kernel

theorem witness_IntakeLines_bit :
    ((receiving [] []).pins.resetn = .high ∧ (receiving [] []).intake.receiving = true
      ∧ (receiving [] []).intake.bits.length < 7)
    ∧ (receiving [] (List.replicate 6 true)).intake.bits.length < 7
    ∧ ((receiving (List.replicate 65 0) (List.replicate 7 true)).intake.bits.length = 7
      ∧ (receiving (List.replicate 65 0) (List.replicate 7 true)).intake.buffer.length < 66)
    ∧ 66 ≤ (receiving (List.replicate 66 0) (List.replicate 7 true)).intake.buffer.length
    ∧ State.reset.pins.resetn = .low ∧ idle.intake.receiving = false := by
  repeat' apply And.intro
  all_goals decide +kernel

/-- Whether a message is judged an error of the counter given. -/
def errs (m : List Byte) (bits : List Bool) (c : DeviceCounter) : Bool :=
  match judgeMessage (receiving m bits).intake with
  | .error d => d == c
  | .ok _ => false

/-- Whether a message is judged good and of the kind given. -/
def good (m : List Byte) (k : MessageKind) : Bool :=
  match judgeMessage (receiving m []).intake with
  | .error _ => false
  | .ok l => l == k

theorem witness_MessageChecks :
    errs [0, 0, 0] [] .framingErrors ∧ errs (message 3 2 [1, 1]) [true] .framingErrors
    ∧ errs [0x38, 1, 0, 0] [] .lengthErrors ∧ errs [0x38, 0, 0, 0] [] .crcErrors
    ∧ errs (message 4 2 []) [] .kindErrors ∧ errs (message 1 2 [0, 1]) [] .lengthErrors
    ∧ errs (message 2 2 [0, 1, 9, 17]) [] .lengthErrors ∧ errs (message 3 2 [1]) [] .lengthErrors
    ∧ State.reset.intake.receiving = false ∧ State.reset.pins.resetn = .low := by
  repeat' apply And.intro
  all_goals decide +kernel

theorem witness_GoodMessages :
    good (message 1 2 [0, 1, 9, 1, 2, 3]) .sample ∧ good (message 2 2 [0, 1, 9, 1, 1, 2, 3]) .block
    ∧ good (message 3 2 [7, 1]) .command ∧ good (message 3 1 [7, 1]) .command
    ∧ idle.pins.nodeAddress.toNat = 2 ∧ idle.pins.resetn = .high := by
  repeat' apply And.intro
  all_goals decide +kernel

/-! ### Hypotheses met: arrivals -/

/-- A part with one channel record, channel 1. -/
def withChannel (ch : Channel) : State :=
  { idle with channels := [(1, ch)], freeCells := 2048 - ch.queue.length }

theorem witness_SequenceCheck :
    (idle.channel 1).keeping = .undefined
    ∧ ((withChannel (queued .dropNew [])).channel 1).seqCheck = false
    ∧ ((withChannel (latest .fresh 0)).channel 1).keeping ≠ .undefined
    ∧ ((withChannel (latest .fresh 0)).channel 1).seqCheck = true
    ∧ ((withChannel (latest .fresh 0)).channel 1).lastSeq = some 10
    ∧ ((10 : Byte) - 10).toNat = 0 ∧ ((11 : Byte) - 10).toNat = 1 ∧ ((12 : Byte) - 10).toNat = 2
    ∧ ((137 : Byte) - 10).toNat = 127 ∧ ((138 : Byte) - 10).toNat = 128 ∧ ((9 : Byte) - 10).toNat = 255 := by
  repeat' apply And.intro
  all_goals decide +kernel

theorem witness_AcceptedLatest :
    (latest .stale 2).keeping = .latest ⟨.stale, 2, 1, .fill, true⟩
    ∧ (latest .fresh 0).keeping = .latest ⟨.fresh, 0, 1, .fill, true⟩ := by
  repeat' apply And.intro
  all_goals decide +kernel

theorem witness_AcceptedQueued :
    (([] : List Sample).length < 2 ∧ 1 ≤ idle.freeCells)
    ∧ ¬ ([1, 2] : List Sample).length < 2
    ∧ ¬ 1 ≤ ({ idle with freeCells := 0 } : State).freeCells := by
  repeat' apply And.intro
  all_goals decide +kernel

theorem witness_Notices :
    (idle.replies.records.length + idle.replies.reservations.length + 1 ≤ 16)
    ∧ ¬ ((List.replicate 16 (replyRecord 1 1 0 [])).length + 0 + 1 ≤ 16) := by
  repeat' apply And.intro
  all_goals decide +kernel

/-! ### Hypotheses met: fetches -/

theorem witness_Descriptors :
    idle.engine.inForce = .boot
    ∧ Table.get .empty (bankWith (.rotate 3)).template 1 = .rotate 3
    ∧ Table.get [] (bankWith (.rotate 3)).rotation 3 = [.const 5, .fill]
    ∧ (emits (.rotate 3) .blank).engine.frameIndex = some 1
    ∧ (emits (.rotate 3) .blank).slotAt 1 = .fill := by
  repeat' apply And.intro
  all_goals decide +kernel

/-- The hypotheses of a word of the descriptor given, at place 1 of bank A. -/
abbrev Emits (d : Slot) (ch : Channel) : Prop :=
  (emits d ch).FetchesNow ∧ (emits d ch).atWord.slotAt (emits d ch).engine.place = d

theorem witness_WordsThatReadState :
    Emits (.const 5) .blank ∧ Emits .fill .blank ∧ Emits .frameIndex .blank ∧ Emits .frameCount .blank
    ∧ Emits (.time 32 16) .blank ∧ Emits (.channel 1 .held true 0 1) (latest .fresh 0)
    ∧ Emits (.channel 1 .held true 8 16) (latest .fresh 0)
    ∧ (emits .fill .blank).geometry.width = 16
    ∧ (emits .frameIndex .blank).atWord.engine.frameIndex = some 1
    ∧ (emits .frameCount .blank).atWord.engine.frameCount = some 0x1001 := by
  repeat' apply And.intro
  all_goals decide +kernel

theorem witness_ChannelCapture :
    Emits (.channel 1 .capture false 0 1) (latest .fresh 0) ∧ Emits (.channel 1 .capture false 8 16) (latest .stale 2)
    ∧ Emits (.channel 1 .capture true 0 16) (latest .never 255)
    ∧ Emits (.channel 1 .capture true 0 16) (queued .dropNew [1, 2])
    ∧ Emits (.channel 1 .capture true 0 16) (queued .dropNew [])
    ∧ ((emits .fill (queued .dropNew [1, 2])).atWord.channel 1).keeping = .queued ⟨2, .dropNew, [1, 2]⟩ := by
  repeat' apply And.intro
  all_goals decide +kernel

/-- A part about to fetch a run with a CAPTURE pick, a second CAPTURE pick and a HELD pick of one channel, STALE. -/
def packs : State := emits (.packed 0 4) (latest .stale 2)

theorem test_packed_run : packs.atWord.pickRun 0 4
    = [.one, .channelBit 1 0 .capture, .channelBit 1 6 .capture, .channelBit 1 6 .held] := by decide +kernel

/-- The fill value 0x00DEAD has bit 0 set and bit 6 clear; the stale capture is counted once. -/
theorem test_packed_word :
    wordAfter (exec .wordFetch packs) = some ⟨16, 0b0011⟩
    ∧ ((packs.capture 1).1.channel 1).counters.staleCapture = 1
    ∧ firstCaptures [] (packs.atWord.pickRun 0 4) = [1] := by
  repeat' apply And.intro
  all_goals decide +kernel

theorem witness_Packed :
    packs.FetchesNow ∧ packs.atWord.slotAt packs.engine.place = .packed 0 4
    ∧ Pick.unset ∉ packs.atWord.pickRun 0 4
    ∧ ∀ c b m, Pick.channelBit c b m ∈ packs.atWord.pickRun 0 4 → packs.atWord.isUndefined c = false := by
  refine ⟨by decide +kernel, by decide +kernel, by decide +kernel, fun c b m h => ?_⟩
  rw [test_packed_run] at h
  simp only [List.mem_cons, Pick.channelBit.injEq, reduceCtorEq, false_or, List.not_mem_nil, or_false] at h
  rcases h with ⟨rfl, _⟩ | ⟨rfl, _⟩ | ⟨rfl, _⟩ <;> decide +kernel

theorem witness_Health : Emits .health .blank := by
  repeat' apply And.intro
  all_goals decide +kernel

theorem witness_Reply :
    Emits .reply .blank
    ∧ ({ emits .reply .blank with replies := ⟨[replyRecord 1 1 0 []], 4, []⟩ } : State).atWord.slotAt 1 = .reply
    ∧ (replyRecord 1 1 0 [])[4]? = some 0xF9 ∧ (replyRecord 1 1 0 [])[0]? = some 5 := by
  repeat' apply And.intro
  all_goals decide +kernel

theorem witness_FrameStart :
    (emits .fill .blank).engine.place ≠ 0 ∧ idle.engine.pendingSwitch = none
    ∧ idle.engine.place = 0 ∧ idle.engine.frameIndex = none
    ∧ (atBoundary (.bank .a) ⟨.boot, 3⟩).engine.place = 0
    ∧ (atBoundary (.bank .a) ⟨.boot, 3⟩).engine.frameIndex = some 1
    ∧ (atBoundary (.bank .a) ⟨.boot, 3⟩).geometry.depth = 2 := by
  repeat' apply And.intro
  all_goals decide +kernel

theorem witness_Tick :
    (withChannel (latest .fresh 1)).PoolInv ∧ (withChannel (latest .fresh 1)).FreshnessInv
    ∧ ((withChannel (latest .fresh 1)).tick.channel 1).keeping = .latest ⟨.stale, 2, 1, .fill, true⟩ := by
  repeat' apply And.intro
  all_goals decide +kernel

/-- The hypotheses of carrying out what is pending. -/
abbrev CarriesOut (s : State) (target : PendingSwitch) : Prop :=
  s.PoolInv ∧ s.EngineInv ∧ s.PinInv ∧ s.ReplyInv ∧ s.engine.frameCount = some 8 ∧ s.engine.pendingSwitch = some target

theorem witness_SwitchAndStop :
    CarriesOut (atBoundary .boot ⟨.bank .b, 3⟩) ⟨.bank .b, 3⟩
    ∧ CarriesOut (atBoundary (.bank .a) ⟨.bank .b, 3⟩) ⟨.bank .b, 3⟩
    ∧ CarriesOut (atBoundary (.bank .a) ⟨.boot, 3⟩) ⟨.boot, 3⟩
    ∧ ((atBoundary .boot ⟨.bank .b, 3⟩).bank .b).geometry = some ⟨16, 4, 2, 0xABCD, 1, 64⟩ := by
  repeat' apply And.intro
  all_goals decide +kernel

/-- A FOLLOWER part with three bits of a word remaining. -/
def shifting : State := { emits .fill .blank with serial := { (emits .fill .blank).serial with remaining := 3 } }

theorem witness_Strobes :
    (shifting.strobeOccurs = true ∧ shifting.serial.word = some ⟨16, 0⟩ ∧ shifting.serial.remaining = 2 + 1)
    ∧ (emits .fill .blank).FetchesNow ∧ idle.strobeOccurs = false ∧ State.reset.strobeOccurs = false := by
  repeat' apply And.intro
  all_goals decide +kernel

/-! ### Hypotheses met: REFCLK and validation -/

theorem witness_ClockEdges :
    State.reset.pins.resetn = .low ∧ idle.pins.resetn = .high ∧ idle.EdgeFinished ∧ idleFollower.EdgeFinished
    ∧ idle.timeBase.edge ≠ .advanceDue
    ∧ ({ idle.timeBase with edge := .afterStrobe } : TimeBase).edge ≠ .taken
    ∧ ({ idle.timeBase with edge := .advanceDue } : TimeBase).edge = .advanceDue := by
  repeat' apply And.intro
  all_goals decide +kernel

/-- A MASTER part with a strobe due and a count to follow it. -/
def edgeLeft : State :=
  { idle with timeBase := { idle.timeBase with edge := .afterStrobe }, serial := { idle.serial with strobeDue := true } }

theorem witness_ClockEdgeFinishes :
    edgeLeft.pins.resetn = .high ∧ edgeLeft.TimeInv ∧ edgeLeft.pins.linkMode = .master ∧ ¬ edgeLeft.EdgeFinished := by
  repeat' apply And.intro
  all_goals decide +kernel

/-- A FOLLOWER part with an advance due. -/
def advanceLeft : State := { idleFollower with timeBase := { idleFollower.timeBase with edge := .advanceDue } }

theorem witness_ClockEdgeFinishes_follower :
    (advanceLeft.pins.resetn = .high ∧ advanceLeft.TimeInv ∧ advanceLeft.pins.linkMode = .follower
      ∧ ¬ advanceLeft.EdgeFinished) ∧ advanceLeft.PacerInv := by
  refine ⟨by decide +kernel, rfl, rfl⟩

theorem witness_Pacer :
    1 ≤ idle.serial.ratioN.toNat ∧ 2 * idle.serial.ratioN.toNat ≤ idle.serial.ratioD.toNat
    ∧ idle.serial.accumulator < idle.serial.ratioD.toNat ∧ idle.serial.accumulator < idle.serial.ratioN.toNat := by
  repeat' apply And.intro
  all_goals decide +kernel

/-- A part that validates bank B with the progress given, for a SWITCH with tag 3. -/
def validating (p : Progress) : State :=
  { idleFollower with
    channels := [(1, latest .fresh 0)]
    bankB := { bankWith (.channel 1 .capture false 0 16) with state := .validating }
    engine := ⟨.boot, 1, some 0, some 8, none, [], []⟩
    validation := some ⟨.b, 3, p⟩
    replies := ⟨[], 0, [⟨3, 0x30, 9⟩]⟩ }

theorem witness_Completion :
    (validating (.found ⟨.noReply, 0, 0⟩)).ReplyInv
    ∧ (validating (.passed [1])).PoolInv ∧ (validating (.passed [1])).PinInv
    ∧ (validating (.passed [1])).validation = some ⟨.b, 3, .passed [1]⟩
    ∧ Progress.ended (.test .geometry) = false ∧ idle.validation = none := by
  repeat' apply And.intro
  all_goals decide +kernel

/-- The whole of a small validation, four tests and eight places, then success, over twelve periods that differ. -/
theorem witness_ValidationEnds :
    Bank.clear.geometry = none ∧ (bankWith .fill).geometryOk = true
    ∧ (bankWith .fill).geometry = some ⟨16, 4, 2, 0xABCD, 1, 64⟩
    ∧ ((validating (.test .geometry) :: List.replicate 11 (validating (.examine 1 3 [] [1]))).foldl
        (fun (p : Progress) (s : State) => s.nextProgress (bankWith (.channel 1 .capture false 0 16)) p)
        (.test .geometry)) = .passed [1] := by
  repeat' apply And.intro
  all_goals decide +kernel

/-- A validation at its first test and at its last place. -/
theorem witness_ValidationEnds_edge :
    (validating (.test .geometry)).pins.resetn = .high
    ∧ (validating (.test .geometry)).validation = some ⟨.b, 3, .test .geometry⟩
    ∧ (validating (.examine 1 3 [1] [1])).validation = some ⟨.b, 3, .examine 1 3 [1] [1]⟩
    ∧ Progress.ended (.test .geometry) = false ∧ Progress.ended (.examine 1 3 [1] [1]) = false
    ∧ ((validating (.test .geometry)).bank .b).geometryOk = true
    ∧ Progress.periodsLeft (.test .geometry) ((validating (.test .geometry)).bank .b) = 12
    ∧ Progress.periodsLeft (.examine 1 3 [1] [1]) ((validating (.test .geometry)).bank .b) = 1 := by
  repeat' apply And.intro
  all_goals decide +kernel

theorem witness_ValidationEnds_other :
    exec .ping (validating (.test .geometry)) = .next (validating (.test .geometry)) := rfl

theorem witness_WholeTests :
    Table.wf .empty (bankWith .fill).template = true
    ∧ Table.get .empty (bankWith .fill).template 0 = .reply
    ∧ (∀ p, p < 4 → Table.get .empty ([(0, .fill)] : Table Slot) p ≠ .reply)
    ∧ idle.pins.linkMode = .master ∧ idleFollower.pins.linkMode = .follower := by
  repeat' apply And.intro
  all_goals decide +kernel

/-- A part with channel 1 LATEST and channel 2 QUEUED. -/
def examining : State := { idle with channels := [(1, latest .fresh 0), (2, queued .dropNew [])] }

/-- Whether an examination fails with the reason given. -/
def fails (r : Except Reason Seen) (reason : Reason) : Bool :=
  match r with
  | .error e => e == reason
  | .ok _ => false

/-- Whether an examination passes and leaves the sets given. -/
def passes (r : Except Reason Seen) (seen : Seen) : Bool :=
  match r with
  | .error _ => false
  | .ok s => s == seen

/-- The examination of place `p` of frame `f` with nothing captured, at W = 12, F = 4, C = 2. -/
def examined (d : Slot) (f p : Nat) : Except Reason Seen :=
  examining.examinePlace (bankWith d) ⟨12, 4, 2, 0, 1, 64⟩ f p ⟨[], []⟩

theorem witness_Places :
    fails (examined .fill 0 9) .slotEmpty ∧ passes (examined (.rotate 3) 1 1) ⟨[], []⟩
    ∧ fails (examined (.rotate 4) 0 1) .rotationLength ∧ fails (examined (.const 0x1000) 0 1) .constTooWide
    ∧ fails (examined (.time 0 13) 0 1) .fieldTooWide ∧ fails (examined (.channel 9 .held false 0 12) 0 1) .channelUndefined
    ∧ fails (examined (.channel 1 .held false 0 12) 0 1) .heldBeforeCapture
    ∧ passes (examined (.channel 1 .capture false 0 12) 0 1) ⟨[1], [1]⟩ := by
  repeat' apply And.intro
  all_goals decide +kernel

/-- The examination of a PACKED descriptor with nothing captured, at W = 10. -/
def examinedRun (a n : Nat) : Except Reason Seen :=
  examining.examineSlot (bankWith .fill) ⟨10, 4, 2, 0, 1, 64⟩ ⟨[], []⟩ (.packed a n)

theorem witness_PackedRuns :
    fails (examinedRun 0 11) .packTooWide ∧ fails (examinedRun 0 10) .pickUnset
    ∧ fails (examinedRun 0 5) .channelUndefined ∧ fails (examinedRun 5 1) .kindMismatch
    ∧ fails (examinedRun 3 1) .heldBeforeCapture ∧ passes (examinedRun 0 4) ⟨[1], [1]⟩ := by
  repeat' apply And.intro
  all_goals decide +kernel

/-! ### Hypotheses met: takes -/

/-- A record that is taken from the state given. -/
abbrev Takes (s : State) (code : Byte) (args : List Byte) : Prop :=
  (asked s code args).ReplyInv ∧ (asked s code args).takeable = some (record code args)

theorem witness_TakesWait :
    idle.takeable = none ∧ Takes idle 0x02 [0x01] ∧ Takes idle 0x99 []
    ∧ ({ asked idle 0x25 [] with replies := ⟨List.replicate 13 (List.replicate 37 0), 0, []⟩ } : State).takeable = none
    ∧ ({ asked idle 0x02 [0x02] with replies := ⟨List.replicate 16 [0], 0, []⟩ } : State).takeable
      = some (record 0x02 [0x02])
    ∧ Takes idle 0x02 [0x02] ∧ Takes idle 0x01 [] ∧ (0x01 : Byte) ≠ 0x02 ∧ (0x01 : Byte) = Command.ping.code := by
  repeat' apply And.intro
  all_goals decide +kernel

theorem witness_Refusals :
    Takes idle 0x01 [5] ∧ Command.ping.accepts 1 = false ∧ Takes idle 0x00 [] ∧ Takes idle 0x02 []
    ∧ Takes idle 0x02 [0x03] ∧ (∀ c ∈ catalogue, c.code ≠ 0x00) := by
  repeat' apply And.intro
  all_goals decide +kernel

theorem witness_Ping : Takes idle 0x01 [] := by
  repeat' apply And.intro
  all_goals decide +kernel

theorem witness_Resets :
    (asked (withChannel (latest .stale 9)) 0x02 [0x01]).PoolInv ∧ Takes (withChannel (latest .stale 9)) 0x02 [0x01]
    ∧ Takes (withChannel (latest .stale 9)) 0x02 [0x02] := by
  repeat' apply And.intro
  all_goals decide +kernel

/-- A definition of channel `c` with policy 0, fill value 0 and options 3. -/
def defines (c : Nat) (kind limit : Byte) : List Byte := defineArgs c kind limit 0 0 3

theorem witness_Define_new :
    Takes idle 0x10 (defines 0 1 0) ∧ Takes idle 0x10 (defines 1024 1 0) ∧ Takes idle 0x10 (defines 1 1 255)
    ∧ Takes idle 0x10 (defines 1 2 0) ∧ Takes idle 0x10 (defines 1 0 0) ∧ Takes idle 0x10 (defines 1 1 254)
    ∧ Takes idle 0x10 (defines 1023 2 255) := by
  repeat' apply And.intro
  all_goals decide +kernel

theorem witness_Define_kind_change :
    Takes (withChannel (queued .dropNew [1])) 0x10 (defines 1 1 0)
    ∧ Takes (withChannel { queued .dropNew [1] with activeRef := true }) 0x10 (defines 1 1 0)
    ∧ Takes (withChannel (latest .fresh 0)) 0x10 (defines 1 2 1)
    ∧ Takes (withChannel { latest .fresh 0 with pendingRef := true }) 0x10 (defines 1 2 1) := by
  repeat' apply And.intro
  all_goals decide +kernel

theorem witness_Redefinition :
    Takes (withChannel (latest .never 255)) 0x10 (defines 1 1 254)
    ∧ Takes (withChannel (queued .dropNew [1, 2])) 0x10 (defines 1 2 2)
    ∧ Takes (withChannel (queued .dropNew [1, 2])) 0x10 (defines 1 2 1)
    ∧ ([1, 2] : List Sample) = [1] ++ [2] := by
  repeat' apply And.intro
  all_goals decide +kernel

theorem witness_UndefineAndRead :
    Takes idle 0x11 (bytesOf 2 0) ∧ Takes idle 0x11 (bytesOf 2 1023) ∧ Takes idle 0x12 (bytesOf 2 1024)
    ∧ Takes (withChannel (queued .dropNew [1])) 0x11 (bytesOf 2 1)
    ∧ Takes (withChannel (queued .dropNew [1])) 0x12 (bytesOf 2 1) := by
  repeat' apply And.intro
  all_goals decide +kernel

theorem witness_EditRefusals :
    Takes idle 0x24 [2] ∧ Command.clearBank.accepts 1 = true
    ∧ Takes (atBoundary (.bank .a) ⟨.bank .b, 3⟩) 0x24 [0]
    ∧ ((atBoundary (.bank .a) ⟨.bank .b, 3⟩).bank .a).state = .active
    ∧ ((atBoundary (.bank .a) ⟨.bank .b, 3⟩).bank .b).state = .pending
    ∧ (idle.bank .a).state = .editable := by
  repeat' apply And.intro
  all_goals decide +kernel

theorem witness_Edits :
    Takes idle 0x20 ([0x00, 8] ++ bytesOf 2 4 ++ bytesOf 2 1 ++ bytesOf 2 0 ++ bytesOf 2 1 ++ bytesOf 3 2)
    ∧ Takes idle 0x21 ([0x00] ++ bytesOf 2 511 ++ encodeSlot .reply)
    ∧ Takes idle 0x21 ([0x00] ++ bytesOf 2 512 ++ encodeSlot .reply)
    ∧ Takes idle 0x21 ([0x00] ++ bytesOf 2 0 ++ [0x0B, 0, 0, 0, 0, 0])
    ∧ Takes idle 0x22 [0x01, 31, 64, 0] ∧ Takes idle 0x22 ([0x01, 32, 1, 0] ++ encodeSlot .fill)
    ∧ Takes idle 0x22 ([0x01, 31, 1, 0] ++ encodeSlot .reply)
    ∧ Takes idle 0x23 ([0x01] ++ bytesOf 2 511 ++ encodePick .one)
    ∧ Takes idle 0x23 ([0x01] ++ bytesOf 2 0 ++ [0x58, 0, 1]) ∧ Takes idle 0x24 [1]
    ∧ Takes idle 0x21 ([0x00] ++ bytesOf 2 511 ++ [0x07, 9, 9, 9, 9, 9])
    ∧ Takes idle 0x22 ([0x01, 31, 64, 63] ++ [0x02, 1, 2, 3, 4, 5]) ∧ Takes idle 0x22 ([0x01, 0, 1, 0] ++ [0x0B, 0, 0, 0, 0, 0])
    ∧ Takes idle 0x22 ([0x01, 0, 1, 0] ++ [0x08, 0, 0, 0, 0, 1]) ∧ Takes idle 0x22 [0x01, 0, 65, 0]
    ∧ Takes idle 0x23 ([0x01] ++ bytesOf 2 511 ++ [0xFF, 1, 2]) ∧ Takes idle 0x23 ([0x01] ++ bytesOf 2 512 ++ [0xC0, 0, 0])
    ∧ [[0x07, 9, 9, 9, 9, 9]].map decodeSlot = [Slot.reply].map some
    ∧ [[0x02, 1, 2, 3, 4, 5]].map decodeSlot = [Slot.fill].map some
    ∧ decodeSlot [0x08, 0, 0, 0, 0, 1] = some (.channel 0 .capture false 0 1)
    ∧ Slot.accepted (.channel 0 .capture false 0 1) = false
    ∧ [[0xFF, 1, 2]].map decodePick = [.one] ∧ decodePick [0x77, 0x03, 0xFF] = .channelBit 1023 23 .held
    ∧ Table.wf .empty idle.bankA.template = true ∧ Table.wf [] idle.bankB.rotation = true
    ∧ decodeSlot [0x0B, 0, 0, 0, 0, 0] = none ∧ (decodePick [0x58, 0, 1]).accepted = false := by
  repeat' apply And.intro
  all_goals decide +kernel

theorem witness_ReadBank :
    Takes idle 0x25 [2, 0, 0, 0] ∧ Takes idle 0x25 [0, 4, 0, 0] ∧ Takes idle 0x25 [0, 0, 0, 0]
    ∧ Takes idle 0x25 [1, 1, 1, 255] ∧ Takes idle 0x25 [1, 2, 31, 63] ∧ Takes idle 0x25 [1, 3, 2, 0] := by
  repeat' apply And.intro
  all_goals decide +kernel

theorem witness_Switch :
    Takes idle 0x30 [2] ∧ Takes idle 0x30 [0] ∧ Takes (atBoundary .boot ⟨.bank .b, 3⟩) 0x30 [0]
    ∧ Takes (emits .fill .blank) 0x30 [0] ∧ ((emits .fill .blank).bank .a).state = .active
    ∧ Takes (emits .fill .blank) 0x30 [1] ∧ ((emits .fill .blank).bank .b).state = .editable
    ∧ (emits .fill .blank).engine.pendingSwitch = none := by
  repeat' apply And.intro
  all_goals decide +kernel

/-- The hypotheses of a STOP. -/
abbrev Stops (s : State) : Prop :=
  (asked s 0x31 []).PoolInv ∧ (asked s 0x31 []).EngineInv ∧ (asked s 0x31 []).PinInv ∧ Takes s 0x31 []

theorem witness_Stop :
    Stops idle ∧ Stops (emits .fill (latest .fresh 0)) ∧ Stops (atBoundary (.bank .a) ⟨.boot, 3⟩)
    ∧ Stops (atBoundary .boot ⟨.bank .b, 3⟩) ∧ Stops (atBoundary (.bank .a) ⟨.bank .b, 3⟩) := by
  repeat' apply And.intro
  all_goals decide +kernel

theorem witness_TimeAndCounters :
    Takes idle 0x40 (bytesOf 2 0) ∧ Takes idle 0x40 (bytesOf 2 0xFFFF) ∧ Takes idle 0x41 (bytesOf 6 1)
    ∧ Takes idle 0x50 [0] ∧ Takes idle 0x50 [1] ∧ Takes idle 0x50 [2]
    ∧ Takes idle 0x51 ([0] ++ bytesOf 2 0) ∧ Takes idle 0x51 ([1] ++ bytesOf 2 1023) ∧ Takes idle 0x51 ([3, 0, 0])
    ∧ Takes (withChannel (latest .fresh 0)) 0x51 ([2] ++ bytesOf 2 0)
    ∧ (asked (withChannel (latest .fresh 0)) 0x51 ([2] ++ bytesOf 2 0)).PoolInv := by
  repeat' apply And.intro
  all_goals decide +kernel

/-! ### Hypotheses met: invariants -/

/-- A released part with a word fetch waiting, and what its step answers. -/
def waiting : State := { idleFollower with pending := [.wordFetch] }

theorem witness_Steps_answer : ∃ t, step waiting = .next t := ⟨_, rfl⟩

theorem witness_Steps_small :
    waiting.PoolInv ∧ waiting.FreshnessInv ∧ waiting.ReplyInv ∧ waiting.EngineInv ∧ waiting.PinInv ∧ waiting.TimeInv
    ∧ waiting.IntakeInv ∧ waiting.CommandInv ∧ waiting.HealthInv ∧ waiting.BankInv ∧ waiting.ResetHeld := by
  repeat' apply And.intro
  all_goals decide +kernel

theorem witness_Steps_formats : waiting.FormatInv ∧ waiting.PacerInv := by
  refine ⟨⟨fun x => ?_, fun x h => ?_, by decide +kernel⟩, ⟨rfl, rfl⟩⟩
  · cases x <;> decide +kernel
  · cases x <;> revert h <;> decide +kernel

theorem witness_BankContents : ((emits .fill .blank).bank .a).state ≠ .editable := by decide +kernel

theorem witness_FormatChanges :
    ∃ t, exec .wordFetch (atBoundary .boot ⟨.bank .b, 3⟩) = .next t ∧ t.engine.inForce = .bank .b := ⟨_, rfl, rfl⟩

theorem witness_RoundTrip :
    Slot.accepted (.channel 1023 .held true 8 16) = true ∧ Slot.accepted (.packed 511 1) = true
    ∧ Slot.accepted (.time 47 1) = true ∧ 0x0B ≤ (0x0B : Byte).toNat ∧ Pick.accepted (.channelBit 1 23 .held) = true := by
  repeat' apply And.intro
  all_goals decide +kernel

end Sys2Proof.Tests
end

/-! ## What a command can do to formats, banks and validation: every command is a chain of moves, one edit, or a
reset. -/

namespace Sys2Proof.Machine

/-! ### What a command leaves alone of formats, banks and the serializer -/

/-- What a command that does not concern the formats leaves alone: RESETN and the link mode, both banks, the format
engine, the serializer and the validation stand in `t` as in `s`. -/
structure State.SameFormats (s t : State) : Prop where
  resetn : t.pins.resetn = s.pins.resetn
  linkMode : t.pins.linkMode = s.pins.linkMode
  bankA : t.bankA = s.bankA
  bankB : t.bankB = s.bankB
  engine : t.engine = s.engine
  serial : t.serial = s.serial
  validation : t.validation = s.validation

namespace State.SameFormats

variable {s t u : State}

theorem refl (s : State) : s.SameFormats s := ⟨rfl, rfl, rfl, rfl, rfl, rfl, rfl⟩

theorem trans (h : s.SameFormats t) (h' : t.SameFormats u) : s.SameFormats u :=
  ⟨h'.resetn.trans h.resetn, h'.linkMode.trans h.linkMode, h'.bankA.trans h.bankA, h'.bankB.trans h.bankB,
    h'.engine.trans h.engine, h'.serial.trans h.serial, h'.validation.trans h.validation⟩

theorem bank (h : s.SameFormats t) (x : BankId) : t.bank x = s.bank x := s.bank_eq_of t x h.bankA h.bankB

theorem geometry (h : s.SameFormats t) : t.geometry = s.geometry := by
  simp only [State.geometry, h.engine]
  cases s.engine.inForce <;> simp [State.geometryOf, h.bank]

end State.SameFormats

theorem State.beginTake_sameFormats (s : State) (r : CmdRecord) : s.SameFormats (s.beginTake r) := by
  constructor <;> simp

theorem State.reply_sameFormats (s : State) (r : CmdRecord) (st : Status) (payload : List Byte) :
    s.SameFormats (s.reply r st payload) := ⟨rfl, rfl, rfl, rfl, rfl, rfl, rfl⟩

theorem State.redefineQueued_sameFormats (s : State) (c : Nat) (ch : Channel) (d : Definition)
    (old new : QueuedPart) : s.SameFormats (s.redefineQueued c ch d old new) := by
  unfold State.redefineQueued
  dsimp only
  split <;> exact ⟨rfl, rfl, rfl, rfl, rfl, rfl, rfl⟩

theorem State.defineChannel_sameFormats (s : State) (r : CmdRecord) : s.SameFormats (s.defineChannel r) := by
  unfold State.defineChannel
  dsimp only
  split
  · exact s.reply_sameFormats r _ _
  split
  · exact s.reply_sameFormats r _ _
  split
  · exact ⟨rfl, rfl, rfl, rfl, rfl, rfl, rfl⟩
  · exact ⟨rfl, rfl, rfl, rfl, rfl, rfl, rfl⟩
  · exact (s.redefineQueued_sameFormats _ _ _ _ _).trans (State.reply_sameFormats _ r _ _)
  all_goals split <;> exact ⟨rfl, rfl, rfl, rfl, rfl, rfl, rfl⟩

theorem State.undefineChannel_sameFormats (s : State) (r : CmdRecord) : s.SameFormats (s.undefineChannel r) := by
  unfold State.undefineChannel
  dsimp only
  split_ifs <;> exact ⟨rfl, rfl, rfl, rfl, rfl, rfl, rfl⟩

theorem State.readChannel_sameFormats (s : State) (r : CmdRecord) : s.SameFormats (s.readChannel r) := by
  unfold State.readChannel
  dsimp only
  split_ifs <;> exact ⟨rfl, rfl, rfl, rfl, rfl, rfl, rfl⟩

theorem State.readBank_sameFormats (s : State) (r : CmdRecord) : s.SameFormats (s.readBank r) := by
  unfold State.readBank
  split
  · exact s.reply_sameFormats r _ _
  split <;> exact s.reply_sameFormats r _ _

theorem State.readCounters_sameFormats (s : State) (r : CmdRecord) : s.SameFormats (s.readCounters r) := by
  unfold State.readCounters
  dsimp only
  split_ifs <;> exact ⟨rfl, rfl, rfl, rfl, rfl, rfl, rfl⟩

theorem State.clearCounters_sameFormats (s : State) (r : CmdRecord) : s.SameFormats (s.clearCounters r) := by
  unfold State.clearCounters
  dsimp only
  split
  · exact ⟨rfl, rfl, rfl, rfl, rfl, rfl, rfl⟩
  · split_ifs <;> exact ⟨rfl, rfl, rfl, rfl, rfl, rfl, rfl⟩
  · exact ⟨rfl, rfl, rfl, rfl, rfl, rfl, rfl⟩
  · exact s.reply_sameFormats r _ _

/-- The five commands that edit a bank (R13). -/
def Command.edits : Command → Bool
  | .setFrame | .writeSlots | .writeRotation | .writePicks | .clearBank => true
  | _ => false

/-- The commands other than the five edits, SWITCH and STOP leave every format, bank and validation alone. -/
theorem Command.owner_sameFormats {c : Command} (he : c.edits = false) (hsw : c ≠ .switch) (hst : c ≠ .stop)
    (r : CmdRecord) (s : State) : s.SameFormats (c.owner r s) := by
  cases c with
  | setFrame | writeSlots | writeRotation | writePicks | clearBank => cases he
  | switch => exact absurd rfl hsw
  | stop => exact absurd rfl hst
  | resetPart => exact .refl s
  | ping | setTimebase | setTime => exact ⟨rfl, rfl, rfl, rfl, rfl, rfl, rfl⟩
  | defineChannel => exact s.defineChannel_sameFormats r
  | undefineChannel => exact s.undefineChannel_sameFormats r
  | readChannel => exact s.readChannel_sameFormats r
  | readBank => exact s.readBank_sameFormats r
  | readCounters => exact s.readCounters_sameFormats r
  | clearCounters => exact s.clearCounters_sameFormats r

/-! ### The intake link -/

theorem State.dispatch_sameFormats (s : State) (m : List Byte) (k : MessageKind) :
    s.SameFormats (s.dispatch m k) := by
  obtain ⟨t, n, q, h, l, e⟩ := s.dispatch_frame m k
  rw [e]
  exact ⟨rfl, rfl, rfl, rfl, rfl, rfl, rfl⟩

theorem State.completeMessage_sameFormats (s : State) : s.SameFormats s.completeMessage := by
  unfold State.completeMessage
  dsimp only
  split
  · exact ⟨rfl, rfl, rfl, rfl, rfl, rfl, rfl⟩
  split
  · exact .trans (t := { s with intake := .idle }) ⟨rfl, rfl, rfl, rfl, rfl, rfl, rfl⟩
      (State.dispatch_sameFormats _ _ _)
  · exact ⟨rfl, rfl, rfl, rfl, rfl, rfl, rfl⟩

/-! ### The moves of the formats -/

/-- Steps 1 to 4 of the frame start: boot ratio, frame index, load and latch, frame count (R46). -/
def State.frameBegun (s : State) : State :=
  { s.bootRatio with
    engine := { s.engine with
      frameIndex := some (nextFrameIndex s.geometry.depth s.engine.frameIndex)
      frameCount := some (nextFrameCount s.engine.frameCount) }
    timeBase := s.bootRatio.timeBase.frameStart }

/-- One move of the formats: what one operation of the part does to banks, format engine, serializer and validation,
with what the part has tested before it. No move writes the contents of a bank. -/
inductive FormatMove : State → State → Prop
  | same {s t : State} : s.SameFormats t → FormatMove s t
  | startValidation (s : State) (x : BankId) (tag : Byte) : s.validation = none → s.engine.pendingSwitch = none →
      s.engine.frameIndex ≠ none → (s.bank x).state ≠ .active →
      FormatMove s { s.setBankState x .validating with validation := some ⟨x, tag, .test .geometry⟩ }
  | cancelSwitch (s : State) (x : BankId) (tag : Byte) : s.validation = none →
      s.engine.pendingSwitch = some ⟨.bank x, tag⟩ → FormatMove s (s.cancelSwitch x tag)
  | stopPending (s : State) (tag : Byte) : s.validation = none → s.engine.pendingSwitch = none →
      s.engine.inForce ≠ .boot → FormatMove s (s.makeStopPending tag)
  | completeFound (s : State) (v : Validation) (f : Finding) : s.validation = some v → v.progress = .found f →
      FormatMove s (s.completeFound v f)
  | completePassed (s : State) (v : Validation) (refs : List Nat) : s.validation = some v →
      v.progress = .passed refs → FormatMove s (s.completePassed v refs)
  | refclkEdge (s : State) (order : EdgeOrder) : FormatMove s (s.refclkEdge order)
  | beginFrame (s : State) : s.engine.place = 0 → FormatMove s s.frameBegun
  | installBank (s : State) (x : BankId) (tag : Byte) : s.engine.place = 0 → s.engine.frameIndex = some 0 →
      s.engine.pendingSwitch = some ⟨.bank x, tag⟩ → FormatMove s (s.installBank x tag)
  | installBoot (s : State) (tag : Byte) : s.engine.place = 0 → s.engine.frameIndex = some 0 →
      s.engine.pendingSwitch = some ⟨.boot, tag⟩ → FormatMove s (s.installBoot tag)
  | handOver (s : State) (content : Nat) : (s.engine.place = 0 → s.engine.frameIndex ≠ none) →
      FormatMove s (s.handedOver content)
  | shift (s : State) (w : OutWord) : FormatMove s { s with serial := s.serial.shift w }.endStrobe

/-- Any number of moves, one after another. -/
abbrev FormatMoves : State → State → Prop := Relation.ReflTransGen FormatMove

theorem State.SameFormats.moves {s t : State} (h : s.SameFormats t) : FormatMoves s t := .single (.same h)

/-- What one move keeps, any number of moves keeps. -/
theorem FormatMoves.keeps {P : State → Prop} (hmove : ∀ s t, FormatMove s t → P s → P t) {s t : State}
    (h : FormatMoves s t) (hs : P s) : P t := by
  induction h with
  | refl => exact hs
  | tail _ hstep ih => exact hmove _ _ hstep ih

/-! ### The operations as moves -/

theorem State.completeValidation_moves (s : State) : FormatMoves s s.completeValidation := by
  unfold State.completeValidation
  split
  · rename_i v hv
    split
    · exact .single (.completeFound s v _ hv ‹_›)
    · exact .single (.completePassed s v _ hv ‹_›)
    · exact .refl
    · exact .refl
  · exact .refl

theorem State.advanceTime_sameFormats (s : State) : s.SameFormats s.advanceTime := ⟨rfl, rfl, rfl, rfl, rfl, rfl, rfl⟩

theorem State.tick_sameFormats (s : State) : s.SameFormats s.tick := by
  obtain ⟨q, h, e⟩ := s.tick_frame
  rw [e]
  exact ⟨rfl, rfl, rfl, rfl, rfl, rfl, rfl⟩

theorem State.content_sameFormats (s : State) (p : Nat) (d : Slot) : s.SameFormats (s.content p d).1 := by
  obtain ⟨t, n, q, h, e⟩ := s.content_frame p d
  rw [e]
  exact ⟨rfl, rfl, rfl, rfl, rfl, rfl, rfl⟩

theorem State.carryOut_moves (s : State) (hp : s.engine.place = 0) (hf : s.engine.frameIndex = some 0) :
    FormatMoves s s.carryOut := by
  unfold State.carryOut
  split
  · exact .refl
  · exact .single (.installBank s _ _ hp hf ‹_›)
  · exact .single (.installBoot s _ hp hf ‹_›)

theorem State.bootRatio_engine (s : State) : s.bootRatio.engine = s.engine := by
  unfold State.bootRatio
  split <;> rfl

theorem State.bootRatio_geometry (s : State) : s.bootRatio.geometry = s.geometry := by
  simp only [State.geometry, s.bootRatio_engine]
  cases s.engine.inForce <;> simp [State.geometryOf, s.bootRatio_bank]

/-- The frame start: its first steps, the freshness tick, and at a cycle boundary the pending switch or stop (R46). -/
theorem State.frameStart_eq (s : State) : s.frameStart =
    if nextFrameIndex s.geometry.depth s.engine.frameIndex = 0 then s.frameBegun.tick.carryOut
    else s.frameBegun.tick := by
  simp only [State.frameStart, s.bootRatio_engine, s.bootRatio_geometry]
  rfl

theorem State.frameStart_moves (s : State) (hp : s.engine.place = 0) : FormatMoves s s.frameStart := by
  have h : FormatMoves s s.frameBegun.tick := .tail (.single (.beginFrame s hp)) (.same (State.tick_sameFormats _))
  have he : s.frameBegun.tick.engine = s.frameBegun.engine := (State.tick_sameFormats _).engine
  rw [s.frameStart_eq]
  split
  · rename_i hf
    exact h.trans (State.carryOut_moves _ (by rw [he]; exact hp) (by rw [he]; exact congrArg some hf))
  · exact h

theorem State.atWord_moves (s : State) : FormatMoves s s.atWord := by
  unfold State.atWord
  split
  · exact s.frameStart_moves ‹_›
  · exact .refl

theorem State.atWord_frameIndex (s : State) (hp : s.engine.place = 0) : s.atWord.engine.frameIndex ≠ none := by
  obtain ⟨_, _, _, _, _, _, _, _, _, _, _, _, _, _, _, _, _, _, e⟩ := s.frameStart_frame
  simp [State.atWord, hp, e]

/-- A word fetch with its strobe. -/
theorem State.fetch_moves (s : State) : FormatMoves s s.fetch.endStrobe := by
  rw [s.fetch_eq]
  have hc := s.atWord.content_sameFormats s.engine.place (s.atWord.slotAt s.engine.place)
  refine .tail (.tail s.atWord_moves (.same hc)) (.handOver _ _ fun hp => ?_)
  rw [hc.engine] at hp ⊢
  exact s.atWord_frameIndex (s.atWord_place ▸ hp)

theorem State.strobe_moves (s : State) : FormatMoves s s.strobe := by
  unfold State.strobe
  split
  · split
    · exact s.fetch_moves
    · exact .single (.shift s _)
  · exact s.fetch_moves

theorem State.finishEdge_moves (s : State) : FormatMoves s s.finishEdge := by
  have h1 := s.completeValidation_moves.tail (.same (State.advanceTime_sameFormats _))
  unfold State.finishEdge
  dsimp only
  split
  · exact (h1.trans (State.strobe_moves _)).tail (.same (State.advanceTime_sameFormats _))
  · exact h1.tail (.same (State.advanceTime_sameFormats _))

/-! ### SWITCH and STOP -/

theorem State.switch_moves (s : State) (r : CmdRecord) (hv : s.validation = none) : FormatMoves s (s.switch r) := by
  unfold State.switch
  split
  · exact (s.reply_sameFormats r _ _).moves
  · rename_i x _
    split_ifs with hp hf ha
    · exact (s.reply_sameFormats r _ _).moves
    · exact (s.reply_sameFormats r _ _).moves
    · exact (s.reply_sameFormats r _ _).moves
    · refine .single (.startValidation s x r.tag hv ?_ ?_ ha)
      · simpa using hp
      · simpa using hf

theorem State.stop_moves (s : State) (r : CmdRecord) (hv : s.validation = none) : FormatMoves s (s.stop r) := by
  unfold State.stop
  split
  · exact (s.reply_sameFormats r _ _).moves
  · exact .tail (.single (.cancelSwitch s _ _ hv ‹_›)) (.same (State.reply_sameFormats _ r _ _))
  · exact .single (.stopPending s r.tag hv ‹_› (by simp [*]))
  · refine .tail (.single (.cancelSwitch s _ _ hv ‹_›)) (.stopPending _ r.tag ?_ ?_ ?_)
    · simpa [State.cancelSwitch] using hv
    · simp [State.cancelSwitch]
    · simp [State.cancelSwitch, *]
  · exact (s.reply_sameFormats r _ _).moves
  · exact (s.reply_sameFormats r _ _).moves

/-! ### Edits -/

/-- What an edit does to the bank it names; none is BAD_ARGUMENT (R3, R7, R9, R11, R14). -/
def Command.change : Command → List Byte → Bank → Option Bank
  | .setFrame => Bank.setFrame
  | .writeSlots => Bank.writeSlots
  | .writeRotation => Bank.writeRotation
  | .writePicks => Bank.writePicks
  | .clearBank => fun _ _ => some .clear
  | _ => fun _ _ => none

theorem Command.owner_of_edits {c : Command} (h : c.edits = true) (r : CmdRecord) (s : State) :
    c.owner r s = s.edit r (c.change r.args) := by
  cases c with
  | setFrame | writeSlots | writeRotation | writePicks | clearBank => rfl
  | _ => cases h

/-- What the arguments of an edit that pass its checks make of a bank. -/
inductive Bank.Edited (args : List Byte) (b : Bank) : Bank → Prop
  | frame (g : Geometry) : geometryArgs args = some g → b.Edited args { b with geometry := some g }
  | slots (ds : List Slot) : slotArgs 3 args = some ds → fieldAt args 1 2 + ds.length ≤ 512 →
      b.Edited args { b with template := Table.putAll .empty b.template (fieldAt args 1 2) ds }
  | rotation (l len e : Nat) (ds : List Slot) : slotArgs 4 args = some ds → l ≤ 31 → len ≤ 64 →
      (ds = [] ∨ e + ds.length ≤ len) → (ds.all Slot.listable = true) →
      b.Edited args { b with
        rotation := Table.put [] b.rotation l (listWritten (listResized (Table.get [] b.rotation l) len) e ds) }
  | picks (ps : List Pick) : pickArgs args = some ps → fieldAt args 1 2 + ps.length ≤ 512 →
      b.Edited args { b with picks := Table.putAll .unset b.picks (fieldAt args 1 2) ps }
  | clear : b.Edited args .clear

theorem Command.change_edited {c : Command} {args : List Byte} {b b' : Bank} (h : c.change args b = some b') :
    b.Edited args b' := by
  cases c with
  | setFrame =>
    obtain ⟨g, hg, rfl⟩ := Option.map_eq_some_iff.1 h
    exact .frame g hg
  | writeSlots =>
    simp only [Command.change, Bank.writeSlots] at h
    split at h
    · cases h
    · split_ifs at h with hr
      cases h
      exact .slots _ ‹_› hr.2
  | writeRotation =>
    simp only [Command.change, Bank.writeRotation] at h
    split at h
    · cases h
    · split_ifs at h with hr
      cases h
      obtain ⟨hl, hlen, hds, hlist⟩ := hr
      exact .rotation _ _ _ _ ‹_› hl hlen hds hlist
  | writePicks =>
    simp only [Command.change, Bank.writePicks] at h
    split at h
    · cases h
    · split_ifs at h with hr
      cases h
      exact .picks _ ‹_› hr.2
  | clearBank =>
    cases h
    exact .clear
  | _ => cases h

/-- An edit writes an EDITABLE bank, or answers and leaves every bank alone (R13). -/
theorem State.edit_cases (s : State) (r : CmdRecord) (change : Bank → Option Bank) :
    s.SameFormats (s.edit r change)
    ∨ ∃ x b, (s.bank x).state = .editable ∧ change (s.bank x) = some b
        ∧ (s.setBank x b).SameFormats (s.edit r change) := by
  unfold State.edit
  split
  · exact .inl (s.reply_sameFormats r _ _)
  · rename_i x _
    split
    · exact .inl (s.reply_sameFormats r _ _)
    · exact .inl (s.reply_sameFormats r _ _)
    · exact .inl ⟨rfl, rfl, rfl, rfl, rfl, rfl, rfl⟩
    · split
      · exact .inl (s.reply_sameFormats r _ _)
      · rename_i b hb
        exact .inr ⟨x, b, ‹_›, hb, State.reply_sameFormats _ r _ _⟩

/-! ### What one command can do to the formats -/

/-- What a command can do to banks, format engine, serializer and validation. -/
inductive FormatStep (s t : State) : Instr → Prop
  | moves (i : Instr) : FormatMoves s t → FormatStep s t i
  | edit (i : Instr) (args : List Byte) (x : BankId) (b : Bank) : s.pins.resetn = .high →
      s.validation = none → (s.bank x).state = .editable → (s.bank x).Edited args b →
      (s.setBank x b).SameFormats t → FormatStep s t i
  | assert (lmode : Level) : t = s.pinReset lmode → FormatStep s t (.pinResetAssert lmode)
  | release (lmode adr1 adr0 : Level) : s.pins.resetn = .low → t = s.releaseReset lmode adr1 adr0 →
      FormatStep s t (.pinResetRelease lmode adr1 adr0)
  | restart (u : State) : s.pins.resetn = .high → s.SameFormats u → t = u.restart → FormatStep s t .resetPartRestart
  | full (u : State) : s.pins.resetn = .high → s.SameFormats u → t = u.fullReset → FormatStep s t .resetPartFull

theorem State.beginTake_setBank_sameFormats (s : State) (r : CmdRecord) (x : BankId) (b : Bank) :
    (s.setBank x b).SameFormats ((s.beginTake r).setBank x b) := by
  cases x <;> constructor <;> simp [State.setBank]

/-- The takes of the catalogued commands. -/
theorem exec_row_formatStep {c : Command} {i : Instr} (hrow : c.row = some i) {s t : State}
    (h : exec i s = .next t) : FormatStep s t i := by
  rw [exec_row hrow, State.takeCommand] at h
  rcases s.take_cases (fun r => commandOf r.code == some c) (fun r u =>
      if c.accepts r.args.length then c.owner r u else u.reply r .badLength []) with ⟨r, ht, -, e⟩ | e
  · rw [e] at h
    obtain ⟨hr, hv, -, -⟩ := State.takeable_some ht
    have hb : FormatMoves s (s.beginTake r) := (s.beginTake_sameFormats r).moves
    have hv' : (s.beginTake r).validation = none := by simpa using hv
    split at h <;> cases h
    · by_cases he : c.edits = true
      · rw [Command.owner_of_edits he]
        rcases (s.beginTake r).edit_cases r (c.change r.args) with hsame | ⟨x, b, hx, hb', hsame⟩
        · exact .moves i (hb.tail (.same hsame))
        · rw [State.beginTake_bank] at hx hb'
          exact .edit i r.args x b hr hv hx (Command.change_edited hb')
            ((s.beginTake_setBank_sameFormats r x b).trans hsame)
      · by_cases hsw : c = .switch
        · subst hsw
          exact .moves i (hb.trans (State.switch_moves _ r hv'))
        by_cases hst : c = .stop
        · subst hst
          exact .moves i (hb.trans (State.stop_moves _ r hv'))
        exact .moves i (hb.tail (.same (c.owner_sameFormats (by simpa using he) hsw hst r _)))
    · exact .moves i (hb.tail (.same (State.reply_sameFormats _ r _ _)))
  · rw [e] at h
    cases h
    exact .moves i .refl

/-- The catalogued command that a row takes, where it takes one of a single command. -/
def catalogued : Instr → Option Command
  | .ping => some .ping
  | .defineChannel => some .defineChannel
  | .undefineChannel => some .undefineChannel
  | .readChannel => some .readChannel
  | .setFrame => some .setFrame
  | .writeSlots => some .writeSlots
  | .writeRotation => some .writeRotation
  | .writePicks => some .writePicks
  | .clearBank => some .clearBank
  | .readBank => some .readBank
  | .switch => some .switch
  | .stop => some .stop
  | .setTimebase => some .setTimebase
  | .setTime => some .setTime
  | .readCounters => some .readCounters
  | .clearCounters => some .clearCounters
  | _ => none

theorem row_of_catalogued {i : Instr} {c : Command} (h : catalogued i = some c) : c.row = some i := by
  cases i <;> cases h <;> rfl

/-- Every command of the table does one of these to the formats. -/
theorem exec_formatStep {i : Instr} {s t : State} (h : exec i s = .next t) : FormatStep s t i := by
  cases hrow : catalogued i with
  | some c => exact exec_row_formatStep (row_of_catalogued hrow) h
  | none =>
  cases i with
  | unknownCommand =>
    rcases s.take_cases (fun r => commandOf r.code == none) (fun r s => s.reply r .unknownCommand [])
      with ⟨r, -, -, e⟩ | e <;> cases e.symm.trans h
    · exact .moves _ ((s.beginTake_sameFormats r).trans (State.reply_sameFormats _ r _ _)).moves
    · exact .moves _ .refl
  | resetPartRefused =>
    rcases s.take_cases (fun r => commandOf r.code == some .resetPart && resetOption r == none) (fun r s =>
      if Command.resetPart.accepts r.args.length then s.reply r .badArgument [] else s.reply r .badLength [])
      with ⟨r, -, -, e⟩ | e <;> cases e.symm.trans h
    · refine .moves _ ((s.beginTake_sameFormats r).trans ?_).moves
      split <;> exact State.reply_sameFormats _ r _ _
    · exact .moves _ .refl
  | resetPartRestart =>
    rcases s.take_cases (fun r => resetOption r == some .restart) (fun _ s => s.restart)
      with ⟨r, ht, -, e⟩ | e <;> cases e.symm.trans h
    · exact .restart _ (State.takeable_some ht).1 (s.beginTake_sameFormats r) rfl
    · exact .moves _ .refl
  | resetPartFull =>
    rcases s.take_cases (fun r => resetOption r == some .full) (fun _ s => s.fullReset)
      with ⟨r, ht, -, e⟩ | e <;> cases e.symm.trans h
    · exact .full _ (State.takeable_some ht).1 (s.beginTake_sameFormats r) rfl
    · exact .moves _ .refl
  | pinResetAssert lmode =>
    cases h
    exact .assert lmode rfl
  | pinResetRelease lmode adr1 adr0 =>
    simp only [exec, execPinResetRelease] at h
    split at h <;> cases h
    · exact .release lmode adr1 adr0 ‹_› rfl
    · exact .moves _ .refl
  | messageCompletion =>
    simp only [exec, execMessageCompletion] at h
    split at h <;> cases h
    · exact .moves _ (.tail (.single (.same (t := { s with pins := { s.pins with ifrm := .high } })
        ⟨rfl, rfl, rfl, rfl, rfl, rfl, rfl⟩)) (.same (State.completeMessage_sameFormats _)))
    · exact .moves _ (State.SameFormats.moves ⟨rfl, rfl, rfl, rfl, rfl, rfl, rfl⟩)
  | ifrmFall =>
    simp only [exec, execIfrmFall] at h
    split at h
    · cases h
      exact .moves _ .refl
    · split at h <;> cases h <;> exact .moves _ (State.SameFormats.moves ⟨rfl, rfl, rfl, rfl, rfl, rfl, rfl⟩)
  | iclkRisingEdge idat =>
    simp only [exec, execIclkRisingEdge] at h
    split at h <;> cases h <;> exact .moves _ (State.SameFormats.moves ⟨rfl, rfl, rfl, rfl, rfl, rfl, rfl⟩)
  | wordFetch =>
    simp only [exec, execWordFetch] at h
    split at h <;> cases h
    · exact .moves _ s.fetch_moves
    · exact .moves _ .refl
  | bitStrobe =>
    simp only [exec, execBitStrobe] at h
    split at h <;> cases h
    · exact .moves _ s.strobe_moves
    · exact .moves _ .refl
  | timeCounterAdvance =>
    cases h
    exact .moves _ s.advanceTime_sameFormats.moves
  | validationCompletion =>
    cases h
    exact .moves _ s.completeValidation_moves
  | refclkRisingEdge order =>
    simp only [exec, execRefclkRisingEdge] at h
    split at h <;> cases h
    · exact .moves _ (s.finishEdge_moves.tail (.refclkEdge _ order))
    · exact .moves _ .refl
  | _ => cases hrow

/-- What every command keeps, whatever waits in the queue, every step keeps. -/
theorem step_keeps {P : State → Prop} (hpending : ∀ (s : State) (rest : List Instr), P s → P { s with pending := rest })
    (hexec : ∀ (i : Instr) (s t : State), exec i s = .next t → P s → P t) {s t : State} (h : step s = .next t)
    (hs : P s) : P t := by
  unfold step at h
  split at h
  · cases h
    exact hs
  · exact hexec _ _ _ h (hpending s _ hs)

end Sys2Proof.Machine

/-! ## Bank states, format in force, pending switch and validation stay in agreement (R12, R54, R55). -/

namespace Sys2Proof.Machine

/-! ### Bank states agree with engine and validation (R12, R54, R55) -/

theorem State.bank_setBankState_state (s : State) (x y : BankId) (st : BankState) :
    ((s.setBankState x st).bank y).state = if y = x then st else (s.bank y).state := by
  cases x <;> cases y <;> rfl

/-- The agreement in one clause over both banks. -/
theorem State.engineInv_iff (s : State) : s.EngineInv ↔
    (∀ x, (s.bank x).state = s.expectedBankState x)
    ∧ s.engine.pendingSwitch.map PendingSwitch.target ≠ some s.engine.inForce
    ∧ s.validation.map (fun v => Format.bank v.bank) ≠ some s.engine.inForce
    ∧ (s.validation.isSome = true → s.engine.pendingSwitch = none)
    ∧ s.engine.frameIndex.isSome = s.engine.frameCount.isSome
    ∧ (s.engine.frameIndex = none →
        s.engine.inForce = .boot ∧ s.engine.pendingSwitch = none ∧ s.validation = none ∧ s.engine.place = 0) := by
  constructor
  · rintro ⟨ha, hb, hrest⟩
    exact ⟨fun x => by cases x <;> assumption, hrest⟩
  · rintro ⟨hx, hrest⟩
    exact ⟨hx .a, hx .b, hrest⟩

theorem State.SameFormats.engineInv {s t : State} (h : s.SameFormats t) (hs : s.EngineInv) : t.EngineInv := by
  simpa only [State.EngineInv, State.expectedBankState, h.bankA, h.bankB, h.engine, h.validation] using hs

theorem State.retireInForce_engine (s : State) : s.retireInForce.engine = s.engine := by
  obtain ⟨a, b, e⟩ := s.retireInForce_frame
  rw [e]

theorem State.retireInForce_validation (s : State) : s.retireInForce.validation = s.validation := by
  obtain ⟨a, b, e⟩ := s.retireInForce_frame
  rw [e]

theorem State.retireInForce_state (s : State) (y : BankId) :
    (s.retireInForce.bank y).state = if s.engine.inForce = .bank y then .editable else (s.bank y).state := by
  unfold State.retireInForce
  split
  · simp [*]
  · rw [State.bank_setBankState_state]
    simp [*, eq_comm]

theorem State.startValidation_engineInv {s : State} {x : BankId} {tag : Byte} (hs : s.EngineInv)
    (hv : s.validation = none) (hp : s.engine.pendingSwitch = none) (hf : s.engine.frameIndex ≠ none)
    (ha : (s.bank x).state ≠ .active) :
    { s.setBankState x .validating with validation := some ⟨x, tag, .test .geometry⟩ : State }.EngineInv := by
  rw [State.engineInv_iff] at hs ⊢
  obtain ⟨hst, -, -, -, hfc, -⟩ := hs
  have hx : s.engine.inForce ≠ .bank x := by
    intro hx
    exact ha (by rw [hst x, State.expectedBankState, if_pos hx])
  refine ⟨fun y => ?_, by simp [hp], by simpa [eq_comm] using hx, by simp [hp], by simpa using hfc, by simp [hf]⟩
  change ((s.setBankState x .validating).bank y).state = _
  rw [State.bank_setBankState_state, hst y]
  by_cases hy : y = x
  · subst hy
    simp [State.expectedBankState, hp, hx]
  · simp [State.expectedBankState, hp, hv, hy, Ne.symm hy]

theorem State.cancelSwitch_engineInv {s : State} {x : BankId} {tag : Byte} (hs : s.EngineInv)
    (hv : s.validation = none) (hp : s.engine.pendingSwitch = some ⟨.bank x, tag⟩) :
    (s.cancelSwitch x tag).EngineInv := by
  rw [State.engineInv_iff] at hs ⊢
  obtain ⟨hst, htarget, -, -, hfc, hf⟩ := hs
  have hx : s.engine.inForce ≠ .bank x := by simpa [hp, eq_comm] using htarget
  have hfi : s.engine.frameIndex ≠ none := fun h => by simp [(hf h).2.1] at hp
  refine ⟨fun y => ?_, by simp [State.cancelSwitch], by simp [State.cancelSwitch, hv], by simp [State.cancelSwitch],
    by simpa [State.cancelSwitch] using hfc, by simp [State.cancelSwitch, hfi]⟩
  change ((s.setBankState x .editable).bank y).state = _
  rw [State.bank_setBankState_state, hst y]
  by_cases hy : y = x
  · subst hy
    simp [State.expectedBankState, State.cancelSwitch, hx, hv]
  · simp [State.expectedBankState, State.cancelSwitch, hp, hv, hy, Ne.symm hy]

theorem State.makeStopPending_engineInv {s : State} {tag : Byte} (hs : s.EngineInv) (hv : s.validation = none)
    (hp : s.engine.pendingSwitch = none) (hb : s.engine.inForce ≠ .boot) : (s.makeStopPending tag).EngineInv := by
  rw [State.engineInv_iff] at hs ⊢
  obtain ⟨hst, -, -, -, hfc, hf⟩ := hs
  have hfi : s.engine.frameIndex ≠ none := fun h => hb (hf h).1
  refine ⟨fun y => ?_, by simpa [State.makeStopPending, eq_comm] using hb, by simp [State.makeStopPending, hv],
    by simp [State.makeStopPending, hv], hfc, by simp [State.makeStopPending, hfi]⟩
  change (s.bank y).state = _
  rw [hst y]
  simp [State.expectedBankState, State.makeStopPending, hp]

theorem State.completeFound_engineInv {s : State} {v : Validation} {f : Finding} (hs : s.EngineInv)
    (hv : s.validation = some v) : (s.completeFound v f).EngineInv := by
  rw [State.engineInv_iff] at hs ⊢
  obtain ⟨hst, -, htarget, hfree, hfc, hf⟩ := hs
  have hp : s.engine.pendingSwitch = none := hfree (by simp [hv])
  have hx : s.engine.inForce ≠ .bank v.bank := by simpa [hv, eq_comm] using htarget
  have hfi : s.engine.frameIndex ≠ none := fun h => by simp [(hf h).2.2.1] at hv
  refine ⟨fun y => ?_, by simp [State.completeFound, hp], by simp [State.completeFound], by simp [State.completeFound],
    by simpa [State.completeFound] using hfc, by simp [State.completeFound, hfi]⟩
  change ((s.setBankState v.bank .editable).bank y).state = _
  rw [State.bank_setBankState_state, hst y]
  by_cases hy : y = v.bank
  · subst hy
    simp [State.expectedBankState, State.completeFound, hx, hp]
  · simp [State.expectedBankState, State.completeFound, hp, hv, hy, Ne.symm hy]

theorem State.completePassed_engineInv {s : State} {v : Validation} {refs : List Nat} (hs : s.EngineInv)
    (hv : s.validation = some v) : (s.completePassed v refs).EngineInv := by
  rw [State.engineInv_iff] at hs ⊢
  obtain ⟨hst, -, htarget, hfree, hfc, hf⟩ := hs
  have hp : s.engine.pendingSwitch = none := hfree (by simp [hv])
  have hx : s.engine.inForce ≠ .bank v.bank := by simpa [hv, eq_comm] using htarget
  have hfi : s.engine.frameIndex ≠ none := fun h => by simp [(hf h).2.2.1] at hv
  refine ⟨fun y => ?_, by simpa [State.completePassed, eq_comm] using hx, by simp [State.completePassed],
    by simp [State.completePassed], by simpa [State.completePassed] using hfc, by simp [State.completePassed, hfi]⟩
  change ((s.setBankState v.bank .pending).bank y).state = _
  rw [State.bank_setBankState_state, hst y]
  by_cases hy : y = v.bank
  · subst hy
    simp [State.expectedBankState, State.completePassed, hx]
  · simp [State.expectedBankState, State.completePassed, hp, hv, hy, Ne.symm hy]

/-- One period of validation, as an update of the validation alone (R16). -/
theorem State.validatePeriod_eq (s : State) :
    s.validatePeriod = { s with validation := s.validation.map fun v =>
      { v with progress := s.nextProgress (s.bank v.bank) v.progress } } := by
  unfold State.validatePeriod
  cases h : s.validation with
  | none => cases s; cases h; rfl
  | some v => rfl

theorem State.refclkEdge_validation (s : State) (order : EdgeOrder) :
    (s.refclkEdge order).validation = s.validation.map fun v =>
      { v with progress := s.nextProgress (s.bank v.bank) v.progress } := by
  simp [State.refclkEdge, s.validatePeriod_eq]

theorem State.refclkEdge_bank (s : State) (order : EdgeOrder) (x : BankId) :
    (s.refclkEdge order).bank x = s.bank x := by
  apply State.bank_eq_of <;> simp [State.refclkEdge, s.validatePeriod_eq]

theorem State.refclkEdge_engine (s : State) (order : EdgeOrder) : (s.refclkEdge order).engine = s.engine := by
  simp [State.refclkEdge, s.validatePeriod_eq]

theorem State.refclkEdge_pins (s : State) (order : EdgeOrder) : (s.refclkEdge order).pins = s.pins := by
  simp [State.refclkEdge, s.validatePeriod_eq]

theorem State.refclkEdge_serial (s : State) (order : EdgeOrder) :
    (s.refclkEdge order).serial = match s.pins.linkMode with
      | .master => s.serial.pace
      | .follower => s.serial := rfl

theorem State.refclkEdge_engineInv {s : State} (order : EdgeOrder) (hs : s.EngineInv) :
    (s.refclkEdge order).EngineInv := by
  rw [State.engineInv_iff] at hs ⊢
  simpa [State.expectedBankState, State.refclkEdge_bank, State.refclkEdge_engine, State.refclkEdge_validation,
    Function.comp_def] using hs

theorem State.bootRatio_validation (s : State) : s.bootRatio.validation = s.validation := by
  unfold State.bootRatio
  split <;> rfl

theorem State.frameBegun_validation (s : State) : s.frameBegun.validation = s.validation := s.bootRatio_validation

theorem State.frameBegun_engineInv {s : State} (hs : s.EngineInv) : s.frameBegun.EngineInv := by
  rw [State.engineInv_iff] at hs ⊢
  obtain ⟨hst, htarget, hvt, hfree, -, -⟩ := hs
  rw [s.frameBegun_validation]
  refine ⟨fun y => ?_, htarget, hvt, hfree, rfl, nofun⟩
  change (s.bootRatio.bank y).state = _
  rw [s.bootRatio_bank, hst y, State.expectedBankState, State.expectedBankState, s.frameBegun_validation]
  rfl

theorem State.installBank_engineInv {s : State} {x : BankId} {tag : Byte} (hs : s.EngineInv)
    (hf : s.engine.frameIndex ≠ none) (hp : s.engine.pendingSwitch = some ⟨.bank x, tag⟩) :
    (s.installBank x tag).EngineInv := by
  rw [State.engineInv_iff] at hs ⊢
  obtain ⟨hst, htarget, -, hfree, hfc, -⟩ := hs
  have hx : s.engine.inForce ≠ .bank x := by simpa [hp, eq_comm] using htarget
  have hv : s.validation = none := by
    by_contra h
    simp [hfree (Option.isSome_iff_ne_none.2 h)] at hp
  refine ⟨fun y => ?_, by simp [State.installBank], by simp [State.installBank, State.retireInForce_validation, hv],
    by simp [State.installBank], by simpa [State.installBank, State.retireInForce_engine] using hfc,
    by simp [State.installBank, State.retireInForce_engine, hf]⟩
  change ((s.retireInForce.setBankState x .active).bank y).state = _
  rw [State.bank_setBankState_state, State.retireInForce_state, hst y]
  by_cases hy : y = x
  · subst hy
    simp [State.expectedBankState, State.installBank]
  · have hyx : (Format.bank x) ≠ .bank y := fun h => hy (Format.bank.inj h).symm
    simp [State.expectedBankState, State.installBank, State.retireInForce_validation, hp, hv, hy, hyx]

theorem State.installBoot_engineInv {s : State} {tag : Byte} (hs : s.EngineInv)
    (hf : s.engine.frameIndex ≠ none) (hp : s.engine.pendingSwitch = some ⟨.boot, tag⟩) :
    (s.installBoot tag).EngineInv := by
  rw [State.engineInv_iff] at hs ⊢
  obtain ⟨hst, htarget, -, hfree, hfc, -⟩ := hs
  have hv : s.validation = none := by
    by_contra h
    simp [hfree (Option.isSome_iff_ne_none.2 h)] at hp
  refine ⟨fun y => ?_, by simp [State.installBoot], by simp [State.installBoot, State.retireInForce_validation, hv],
    by simp [State.installBoot], by simpa [State.installBoot, State.retireInForce_engine] using hfc,
    by simp [State.installBoot, State.retireInForce_engine, hf]⟩
  change (s.retireInForce.bank y).state = _
  rw [State.retireInForce_state, hst y]
  simp [State.expectedBankState, State.installBoot, State.retireInForce_validation, hp, hv]

theorem State.handedOver_engineInv {s : State} (content : Nat) (hs : s.EngineInv)
    (hp : s.engine.place = 0 → s.engine.frameIndex ≠ none) : (s.handedOver content).EngineInv := by
  rw [State.engineInv_iff] at hs ⊢
  obtain ⟨hst, htarget, hvt, hfree, hfc, hf⟩ := hs
  have hfi : s.engine.frameIndex ≠ none := fun h => hp (hf h).2.2.2 h
  exact ⟨hst, htarget, hvt, hfree, hfc, fun h => absurd h hfi⟩

/-- Every move keeps the agreement. -/
theorem FormatMove.engineInv {s t : State} (h : FormatMove s t) (hs : s.EngineInv) : t.EngineInv := by
  cases h with
  | same h => exact h.engineInv hs
  | startValidation x tag hv hp hf ha => exact State.startValidation_engineInv hs hv hp hf ha
  | cancelSwitch x tag hv hp => exact State.cancelSwitch_engineInv hs hv hp
  | stopPending tag hv hp hb => exact State.makeStopPending_engineInv hs hv hp hb
  | completeFound v f hv _ => exact State.completeFound_engineInv hs hv
  | completePassed v refs hv _ => exact State.completePassed_engineInv hs hv
  | refclkEdge order => exact State.refclkEdge_engineInv order hs
  | beginFrame _ => exact State.frameBegun_engineInv hs
  | installBank x tag _ hf hp => exact State.installBank_engineInv hs (by simp [hf]) hp
  | installBoot tag _ hf hp => exact State.installBoot_engineInv hs (by simp [hf]) hp
  | handOver content hp => exact State.handedOver_engineInv content hs hp
  | shift w => exact hs

/-- The four edits that write part of a bank leave its state; CLEAR_BANK makes it EDITABLE (R13, R14). -/
theorem Bank.Edited.state {args : List Byte} {b b' : Bank} (h : b.Edited args b') (hb : b.state = .editable) :
    b'.state = .editable := by
  cases h with
  | clear => rfl
  | _ => exact hb

/-- An edit keeps the agreement: the bank it writes is EDITABLE before and after. -/
theorem State.setBank_engineInv {s : State} {x : BankId} {b : Bank} (hs : s.EngineInv)
    (hb : b.state = (s.bank x).state) : (s.setBank x b).EngineInv := by
  rw [State.engineInv_iff] at hs ⊢
  obtain ⟨hst, hrest⟩ := hs
  refine ⟨fun y => ?_, by simpa using hrest⟩
  have he : (s.setBank x b).expectedBankState y = s.expectedBankState y := by simp [State.expectedBankState]
  rw [he, ← hst y]
  by_cases hy : y = x
  · subst hy
    rw [State.bank_setBank, hb]
  · rw [State.bank_setBank_ne s hy]

/-- Boot in force before the first frame, both banks EDITABLE and nothing pending or in validation: what every reset
leaves (R25, R26, R66). -/
theorem State.engineInv_of_reset {s : State} (ha : s.bankA.state = .editable) (hb : s.bankB.state = .editable)
    (he : s.engine = .reset) (hv : s.validation = none) : s.EngineInv := by
  simp [State.EngineInv, State.expectedBankState, ha, hb, he, hv, Engine.reset]

theorem State.restart_engineInv (s : State) : s.restart.EngineInv := by
  apply State.engineInv_of_reset <;> simp [State.restart, State.ready]

theorem State.fullReset_engineInv (s : State) : s.fullReset.EngineInv := by
  apply State.engineInv_of_reset <;> simp [State.fullReset, State.ready, Bank.clear]

theorem State.pinReset_engineInv (s : State) (lmode : Level) : (s.pinReset lmode).EngineInv :=
  State.engineInv_of_reset rfl rfl rfl rfl

theorem State.releaseReset_engineInv {s : State} (lmode adr1 adr0 : Level) (hs : s.EngineInv) :
    (s.releaseReset lmode adr1 adr0).EngineInv := by
  simpa [State.EngineInv, State.expectedBankState, State.releaseReset, State.ready] using hs

theorem FormatStep.engineInv {s t : State} {i : Instr} (h : FormatStep s t i) (hs : s.EngineInv) : t.EngineInv := by
  cases h with
  | moves _ h => exact h.keeps (fun _ _ => FormatMove.engineInv) hs
  | edit _ args x b _ _ hx hb hsame =>
    exact hsame.engineInv (State.setBank_engineInv hs ((hb.state hx).trans hx.symm))
  | assert lmode e => exact e ▸ s.pinReset_engineInv lmode
  | release lmode adr1 adr0 _ e => exact e ▸ State.releaseReset_engineInv lmode adr1 adr0 hs
  | restart u _ _ e => exact e ▸ u.restart_engineInv
  | full u _ _ e => exact e ▸ u.fullReset_engineInv

/-- Settles O55: each move of the formats, edit and reset keeps the agreement. -/
theorem stepsKeepBankStates : Obligations.StepsKeepBankStates := by
  intro s t h hs
  exact step_keeps (P := State.EngineInv) (fun _ _ hs => hs) (fun _ _ _ h hs => (exec_formatStep h).engineInv hs) h hs

end Sys2Proof.Machine

/-! ## Formats in force stay valid and the pacer in range; RESETN holds the part at its pin-reset values (R17, R27,
R111). -/

namespace Sys2Proof.Machine

/-! ### No move writes the contents of a bank -/

/-- Bank `b'` holds what bank `b` holds, its state aside. -/
def Bank.SameContents (b b' : Bank) : Prop := ∃ st, b' = { b with state := st }

theorem Bank.SameContents.refl (b : Bank) : b.SameContents b := ⟨b.state, rfl⟩

theorem Bank.SameContents.trans {b b' b'' : Bank} (h : b.SameContents b') (h' : b'.SameContents b'') :
    b.SameContents b'' := by
  obtain ⟨st, rfl⟩ := h
  obtain ⟨st', rfl⟩ := h'
  exact ⟨st', rfl⟩

theorem Bank.SameContents.geometry {b b' : Bank} (h : b.SameContents b') : b'.geometry = b.geometry := by
  obtain ⟨st, rfl⟩ := h
  rfl

theorem Bank.SameContents.geometryOk {b b' : Bank} (h : b.SameContents b') : b'.geometryOk = b.geometryOk := by
  obtain ⟨st, rfl⟩ := h
  rfl

theorem Bank.SameContents.wholeFinding {b b' : Bank} (h : b.SameContents b') (mode : LinkMode) (t : WholeTest) :
    wholeFinding mode b' t = Machine.wholeFinding mode b t := by
  obtain ⟨st, rfl⟩ := h
  rfl

theorem Bank.SameContents.wholeOk {b b' : Bank} (h : b.SameContents b') (mode : LinkMode) :
    b'.wholeOk mode = b.wholeOk mode := by
  simp only [Bank.wholeOk, h.wholeFinding]

theorem FormatMove.sameContents {s t : State} (h : FormatMove s t) (x : BankId) :
    (s.bank x).SameContents (t.bank x) := by
  cases h with
  | same h => exact h.bank x ▸ .refl _
  | startValidation y tag _ _ _ _ => exact s.setBankState_bank y x .validating
  | cancelSwitch y tag _ _ => exact s.setBankState_bank y x .editable
  | stopPending tag _ _ _ => exact .refl _
  | completeFound v f _ _ => exact s.setBankState_bank v.bank x .editable
  | completePassed v refs _ _ => exact s.setBankState_bank v.bank x .pending
  | refclkEdge order => exact s.refclkEdge_bank order x ▸ .refl _
  | beginFrame _ =>
    change (s.bank x).SameContents (s.bootRatio.bank x)
    exact s.bootRatio_bank x ▸ .refl _
  | installBank y tag _ _ _ =>
    exact Bank.SameContents.trans (s.retireInForce_bank x) (s.retireInForce.setBankState_bank y x .active)
  | installBoot tag _ _ _ => exact s.retireInForce_bank x
  | handOver content _ => exact .refl _
  | shift w => exact .refl _

theorem FormatMoves.sameContents {s t : State} (h : FormatMoves s t) (x : BankId) :
    (s.bank x).SameContents (t.bank x) :=
  h.keeps (P := fun u => (s.bank x).SameContents (u.bank x)) (fun _ _ hm hs => hs.trans (hm.sameContents x)) (.refl _)

theorem FormatMove.pins {s t : State} (h : FormatMove s t) :
    t.pins.resetn = s.pins.resetn ∧ t.pins.linkMode = s.pins.linkMode := by
  cases h with
  | same h => exact ⟨h.resetn, h.linkMode⟩
  | refclkEdge order => rw [State.refclkEdge_pins]; exact ⟨rfl, rfl⟩
  | beginFrame _ =>
    simp only [State.frameBegun, State.bootRatio]
    split <;> exact ⟨rfl, rfl⟩
  | installBank x tag _ _ _ =>
    obtain ⟨a, b, e⟩ := s.retireInForce_frame
    simp [State.installBank, e]
  | installBoot tag _ _ _ =>
    obtain ⟨a, b, e⟩ := s.retireInForce_frame
    simp [State.installBoot, e]
  | startValidation | cancelSwitch | completeFound | completePassed =>
    simp [State.cancelSwitch, State.completeFound, State.completePassed]
  | stopPending | handOver | shift => exact ⟨rfl, rfl⟩

theorem FormatMoves.resetn {s t : State} (h : FormatMoves s t) : t.pins.resetn = s.pins.resetn :=
  h.keeps (P := fun u => u.pins.resetn = s.pins.resetn) (fun _ _ hm hs => hm.pins.1.trans hs) rfl

/-! ### Formats that passed the whole-format tests (R17) -/

theorem Bank.wholeOk_iff (mode : LinkMode) (b : Bank) :
    b.wholeOk mode = true ↔ ∀ t, wholeFinding mode b t = none := by
  simp only [Bank.wholeOk, List.all_cons, List.all_nil, Bool.and_true, Bool.and_eq_true, beq_iff_eq]
  constructor
  · rintro ⟨h1, h2, h3, h4⟩ t
    cases t <;> assumption
  · intro h
    exact ⟨h _, h _, h _, h _⟩

theorem Bank.exists_geometry_of_wholeOk {mode : LinkMode} {b : Bank} (h : b.wholeOk mode = true) :
    ∃ g, b.geometry = some g := by
  have h1 := (Bank.wholeOk_iff mode b).1 h .geometry
  cases hg : b.geometry with
  | none => simp [wholeFinding, hg] at h1
  | some g => exact ⟨g, rfl⟩

/-- In MASTER mode the test RATE leaves a ratio that the pacer can use (R17, R111). -/
theorem Bank.ratio_of_wholeOk {b : Bank} {g : Geometry} (h : b.wholeOk .master = true) (hg : b.geometry = some g) :
    1 ≤ g.ratioN.toNat ∧ 2 * g.ratioN.toNat ≤ g.ratioD.toNat := by
  have h1 := (Bank.wholeOk_iff .master b).1 h .rate
  have h0 : g.ratioN = 0 ↔ g.ratioN.toNat = 0 := by
    rw [← BitVec.toNat_inj]; rfl
  simp only [wholeFinding, hg, true_and, h0] at h1
  split_ifs at h1 with hn
  omega

theorem Bank.ranges_of_geometryOk {b : Bank} {g : Geometry} (h : b.geometryOk = true) (hg : b.geometry = some g) :
    4 ≤ g.length ∧ 1 ≤ g.depth := by
  simp only [Bank.geometryOk, hg, Bool.and_eq_true, decide_eq_true_eq] at h
  omega

/-! ### The claims of the formats, one by one -/

/-- A bank in validation is VALIDATING. -/
theorem State.EngineInv.validating {s : State} (hs : s.EngineInv) {v : Validation} (hv : s.validation = some v) :
    (s.bank v.bank).state = .validating := by
  obtain ⟨hst, -, htarget, hfree, -, -⟩ := s.engineInv_iff.1 hs
  have hp : s.engine.pendingSwitch = none := hfree (by simp [hv])
  have hx : s.engine.inForce ≠ .bank v.bank := by simpa [hv, eq_comm] using htarget
  simp [hst v.bank, State.expectedBankState, hx, hp, hv]

theorem State.EngineInv.active {s : State} (hs : s.EngineInv) {x : BankId} (hx : s.engine.inForce = .bank x) :
    (s.bank x).state = .active := by
  simp [(s.engineInv_iff.1 hs).1 x, State.expectedBankState, hx]

theorem State.EngineInv.pending {s : State} (hs : s.EngineInv) {x : BankId} {tag : Byte}
    (hp : s.engine.pendingSwitch = some ⟨.bank x, tag⟩) : (s.bank x).state = .pending := by
  obtain ⟨hst, htarget, -⟩ := s.engineInv_iff.1 hs
  have hx : s.engine.inForce ≠ .bank x := by simpa [hp, eq_comm] using htarget
  simp [hst x, State.expectedBankState, hx, hp]

/-- The geometry of a bank that passed the tests is its own, in range. -/
theorem State.FormatInv.geometryOf_bank {s : State} (hs : s.FormatInv) {x : BankId}
    (hx : (s.bank x).state = .active ∨ (s.bank x).state = .pending) :
    ∃ g, (s.bank x).geometry = some g ∧ s.geometryOf (.bank x) = g ∧ 4 ≤ g.length ∧ 1 ≤ g.depth := by
  obtain ⟨hgeo, hwhole, -⟩ := hs
  obtain ⟨g, hg⟩ := Bank.exists_geometry_of_wholeOk (hwhole x hx)
  exact ⟨g, hg, by simp [State.geometryOf, hg], Bank.ranges_of_geometryOk (hgeo x) hg⟩

theorem State.FormatInv.one_le_depth {s : State} (hs : s.FormatInv) (he : s.EngineInv) : 1 ≤ s.geometry.depth := by
  unfold State.geometry
  cases hf : s.engine.inForce with
  | boot => exact le_refl 1
  | bank x =>
    obtain ⟨g, -, hg, -, hd⟩ := State.FormatInv.geometryOf_bank hs (.inl (he.active hf))
    rw [hg]
    exact hd

theorem State.geometryOf_of_sameContents {s t : State} (hc : ∀ x, (s.bank x).SameContents (t.bank x)) (f : Format) :
    t.geometryOf f = s.geometryOf f := by
  cases f with
  | boot => rfl
  | bank x => simp only [State.geometryOf, (hc x).geometry]

/-- What a change of bank states, engine and validation must respect so that the claims of the formats stay. -/
theorem State.FormatInv.of_sameContents {s t : State} (hs : s.FormatInv)
    (hc : ∀ x, (s.bank x).SameContents (t.bank x)) (hmode : t.pins.linkMode = s.pins.linkMode) (he : t.EngineInv)
    (hguard : ∀ x, (t.bank x).state = .active ∨ (t.bank x).state = .pending →
      ((s.bank x).state = .active ∨ (s.bank x).state = .pending) ∨ (s.bank x).wholeOk s.pins.linkMode = true)
    (htests : ∀ v, t.validation = some v →
      ∀ w ∈ v.progress.testsDone, wholeFinding s.pins.linkMode (s.bank v.bank) w = none)
    (hplace : t.engine.place < t.geometry.length) (hframe : ∀ f ∈ t.engine.frameIndex, f < t.geometry.depth) :
    t.FormatInv := by
  obtain ⟨hgeo, hwhole, -⟩ := hs
  refine ⟨fun x => (hc x).geometryOk ▸ hgeo x, fun x hx => ?_, fun v hv => ⟨he.validating hv, fun w hw => ?_⟩,
    hplace, hframe⟩
  · rw [hmode, (hc x).wholeOk]
    exact (hguard x hx).elim (hwhole x) id
  · rw [hmode, (hc v.bank).wholeFinding]
    exact htests v hv w hw

/-- What stays when the format in force stays: the ranges of place and frame index are those of the same geometry. -/
theorem State.geometry_of_sameContents {s t : State} (hc : ∀ x, (s.bank x).SameContents (t.bank x))
    (hf : t.engine.inForce = s.engine.inForce) : t.geometry = s.geometry := by
  rw [State.geometry, hf, State.geometryOf_of_sameContents hc, ← State.geometry]

theorem State.SameFormats.formatInv {s t : State} (h : s.SameFormats t) (hs : s.FormatInv) : t.FormatInv := by
  simpa only [State.FormatInv, h.bank, h.engine, h.validation, h.geometry, h.linkMode] using hs

/-- A period of validation counts a whole-format test as made only where it found nothing (R16, R17). -/
theorem State.nextProgress_testsDone (s : State) (b : Bank) (p : Progress)
    (h : ∀ w ∈ p.testsDone, wholeFinding s.pins.linkMode b w = none) :
    ∀ w ∈ (s.nextProgress b p).testsDone, wholeFinding s.pins.linkMode b w = none := by
  rcases p with t | ⟨f, place, captured, refs⟩ | _ | _
  · simp only [State.nextProgress]
    split
    · simp [Progress.testsDone]
    · cases t <;> simp_all [Progress.testsDone]
  · simp only [State.nextProgress]
    split
    · simp [Progress.testsDone]
    · split_ifs <;> exact h
  · exact h
  · exact h

/-- A bank whose state becomes EDITABLE or VALIDATING needs no guard. -/
theorem State.guarded_of_setBankState {s : State} {x y : BankId} {st : BankState} (ha : st ≠ .active)
    (hp : st ≠ .pending)
    (h : ((s.setBankState x st).bank y).state = .active ∨ ((s.setBankState x st).bank y).state = .pending) :
    (s.bank y).state = .active ∨ (s.bank y).state = .pending := by
  rw [State.bank_setBankState_state] at h
  split at h
  · exact (h.elim ha hp).elim
  · exact h

/-- What stays while format in force, place and frame index stay. -/
theorem State.FormatInv.of_sameFrame {s t : State} (hs : s.FormatInv)
    (hc : ∀ x, (s.bank x).SameContents (t.bank x)) (hmode : t.pins.linkMode = s.pins.linkMode) (he : t.EngineInv)
    (hforce : t.engine.inForce = s.engine.inForce) (hplace : t.engine.place = s.engine.place)
    (hframe : t.engine.frameIndex = s.engine.frameIndex)
    (hguard : ∀ x, (t.bank x).state = .active ∨ (t.bank x).state = .pending →
      ((s.bank x).state = .active ∨ (s.bank x).state = .pending) ∨ (s.bank x).wholeOk s.pins.linkMode = true)
    (htests : ∀ v, t.validation = some v →
      ∀ w ∈ v.progress.testsDone, wholeFinding s.pins.linkMode (s.bank v.bank) w = none) : t.FormatInv := by
  have hg := State.geometry_of_sameContents hc hforce
  obtain ⟨-, -, -, hp, hf⟩ := id hs
  exact hs.of_sameContents hc hmode he hguard htests (by rw [hg, hplace]; exact hp) (by rw [hg, hframe]; exact hf)

/-- A new frame of a format that passed the tests begins within its depth. -/
theorem nextFrameIndex_lt {depth : Nat} (h : 1 ≤ depth) (f : Option Nat) : nextFrameIndex depth f < depth := by
  cases f with
  | none => exact h
  | some k => simp only [nextFrameIndex]; split <;> omega

theorem State.installBank_formatInv {s : State} {x : BankId} {tag : Byte} (he : s.EngineInv) (hs : s.FormatInv)
    (hm : FormatMove s (s.installBank x tag)) (hp : s.engine.place = 0) (hf : s.engine.frameIndex = some 0)
    (hsw : s.engine.pendingSwitch = some ⟨.bank x, tag⟩) : (s.installBank x tag).FormatInv := by
  have hc := hm.sameContents
  obtain ⟨g, -, hgx, hl, hd⟩ := State.FormatInv.geometryOf_bank hs (.inr (he.pending hsw))
  have hg : (s.installBank x tag).geometry = g := (State.geometryOf_of_sameContents hc (.bank x)).trans hgx
  obtain ⟨-, -, hval, -, -⟩ := id hs
  refine State.FormatInv.of_sameContents hs hc hm.pins.2 (hm.engineInv he) (fun y hy => .inl ?_) (fun v hv => ?_) ?_ ?_
  · change ((s.retireInForce.setBankState x .active).bank y).state = _ ∨
      ((s.retireInForce.setBankState x .active).bank y).state = _ at hy
    rw [State.bank_setBankState_state, State.retireInForce_state] at hy
    split at hy
    · rename_i hyx
      exact hyx ▸ .inr (he.pending hsw)
    · split at hy
      · simp at hy
      · exact hy
  · exact (hval v (by simpa [State.installBank, State.retireInForce_validation] using hv)).2
  · rw [hg]
    simp only [State.installBank, State.convert_engine, State.count_engine, State.setPins_engine,
      State.setBankState_engine, State.retireInForce_engine, hp]
    omega
  · rw [hg]
    simp only [State.installBank, State.convert_engine, State.count_engine, State.setPins_engine,
      State.setBankState_engine, State.retireInForce_engine, hf]
    rintro f ⟨⟩
    exact hd

theorem State.installBoot_formatInv {s : State} {tag : Byte} (he : s.EngineInv) (hs : s.FormatInv)
    (hm : FormatMove s (s.installBoot tag)) (hp : s.engine.place = 0) (hf : s.engine.frameIndex = some 0) :
    (s.installBoot tag).FormatInv := by
  obtain ⟨-, -, hval, -, -⟩ := id hs
  refine State.FormatInv.of_sameContents hs hm.sameContents hm.pins.2 (hm.engineInv he) (fun y hy => .inl ?_)
    (fun v hv => ?_) ?_ ?_
  · change (s.retireInForce.bank y).state = _ ∨ (s.retireInForce.bank y).state = _ at hy
    rw [State.retireInForce_state] at hy
    split at hy
    · simp at hy
    · exact hy
  · exact (hval v (by simpa [State.installBoot, State.retireInForce_validation] using hv)).2
  · change s.retireInForce.engine.place < bootGeometry.length
    rw [State.retireInForce_engine, hp]
    decide
  · change ∀ f ∈ s.retireInForce.engine.frameIndex, f < bootGeometry.depth
    rw [State.retireInForce_engine, hf]
    rintro f ⟨⟩
    decide

/-- Every move keeps the claims of the formats. -/
theorem FormatMove.formatInv {s t : State} (h : FormatMove s t) (he : s.EngineInv) (hs : s.FormatInv) :
    t.FormatInv := by
  have hc := h.sameContents
  have het := h.engineInv he
  have hmode := h.pins.2
  obtain ⟨-, -, hval, hplace, hframe⟩ := id hs
  have htests : ∀ v, s.validation = some v →
      ∀ w ∈ v.progress.testsDone, wholeFinding s.pins.linkMode (s.bank v.bank) w = none := fun v hv => (hval v hv).2
  cases h with
  | same h => exact h.formatInv hs
  | startValidation x tag _ _ _ _ =>
    refine hs.of_sameFrame hc hmode het (by simp) (by simp) (by simp)
      (fun y hy => .inl (State.guarded_of_setBankState (st := .validating) nofun nofun hy)) ?_
    rintro v ⟨⟩
    simp [Progress.testsDone]
  | cancelSwitch x tag hv _ =>
    exact hs.of_sameFrame hc hmode het (by simp [State.cancelSwitch]) (by simp [State.cancelSwitch])
      (by simp [State.cancelSwitch])
      (fun y hy => .inl (State.guarded_of_setBankState (st := .editable) nofun nofun hy))
      (by simp [State.cancelSwitch, hv])
  | stopPending tag hv _ _ => exact hs.of_sameFrame hc hmode het rfl rfl rfl (fun y hy => .inl hy) htests
  | completeFound v f hv _ =>
    exact hs.of_sameFrame hc hmode het (by simp [State.completeFound]) (by simp [State.completeFound])
      (by simp [State.completeFound])
      (fun y hy => .inl (State.guarded_of_setBankState (st := .editable) nofun nofun hy))
      (by simp [State.completeFound])
  | completePassed v refs hv hp =>
    refine hs.of_sameFrame hc hmode het (by simp [State.completePassed]) (by simp [State.completePassed])
      (by simp [State.completePassed]) (fun y hy => ?_) (by simp [State.completePassed])
    change ((s.setBankState v.bank .pending).bank y).state = _ ∨
      ((s.setBankState v.bank .pending).bank y).state = _ at hy
    rw [State.bank_setBankState_state] at hy
    split at hy
    · rename_i hyv
      refine hyv ▸ .inr ((Bank.wholeOk_iff _ _).2 fun w => htests v hv w ?_)
      cases w <;> simp [hp, Progress.testsDone]
    · exact .inl hy
  | refclkEdge order =>
    have hen := s.refclkEdge_engine order
    refine hs.of_sameFrame hc hmode het (by rw [hen]) (by rw [hen]) (by rw [hen]) (fun y hy => .inl ?_) fun v hv => ?_
    · rwa [State.refclkEdge_bank] at hy
    · rw [State.refclkEdge_validation, Option.map_eq_some_iff] at hv
      obtain ⟨v, hv, rfl⟩ := hv
      exact s.nextProgress_testsDone _ _ (htests v hv)
  | beginFrame hp =>
    have hg := State.geometry_of_sameContents hc rfl
    refine hs.of_sameContents hc hmode het (fun y hy => .inl ?_) (fun v hv => ?_) (hg ▸ hplace) ?_
    · change (s.bootRatio.bank y).state = _ ∨ (s.bootRatio.bank y).state = _ at hy
      rwa [s.bootRatio_bank] at hy
    · exact htests v (s.frameBegun_validation ▸ hv)
    · rw [hg]
      rintro f ⟨⟩
      exact nextFrameIndex_lt (State.FormatInv.one_le_depth hs he) _
  | installBank x tag hp hf hsw =>
    exact State.installBank_formatInv he hs (.installBank s x tag hp hf hsw) hp hf hsw
  | installBoot tag hp hf hsw => exact State.installBoot_formatInv he hs (.installBoot s tag hp hf hsw) hp hf
  | handOver content hp =>
    have hg := State.geometry_of_sameContents hc rfl
    refine hs.of_sameContents hc hmode het (fun y hy => .inl hy) htests ?_ (hg ▸ hframe)
    rw [hg]
    simp only [State.handedOver]
    split <;> omega
  | shift w => exact hs

/-! ### The pacer stays in range (R110, R111, R113) -/

/-- The pacer's claim under each link mode. -/
theorem State.pacerInv_iff (s : State) : s.PacerInv ↔
    (s.pins.linkMode = .master → 1 ≤ s.serial.ratioN.toNat ∧ 2 * s.serial.ratioN.toNat ≤ s.serial.ratioD.toNat
      ∧ s.serial.accumulator < s.serial.ratioD.toNat)
    ∧ (s.pins.linkMode = .follower → s.serial.accumulator = 0 ∧ s.serial.strobeDue = false) := by
  unfold State.PacerInv
  cases s.pins.linkMode <;> simp

/-- Ratio and accumulator as before, and no strobe due that was not. -/
theorem State.PacerInv.of_sameRatio {s t : State} (hs : s.PacerInv) (hmode : t.pins.linkMode = s.pins.linkMode)
    (hn : t.serial.ratioN = s.serial.ratioN) (hd : t.serial.ratioD = s.serial.ratioD)
    (ha : t.serial.accumulator = s.serial.accumulator)
    (hdue : t.serial.strobeDue = s.serial.strobeDue ∨ t.serial.strobeDue = false) : t.PacerInv := by
  rw [State.pacerInv_iff] at hs ⊢
  rw [hmode, hn, hd, ha]
  exact ⟨hs.1, fun h => ⟨(hs.2 h).1, hdue.elim (fun e => e.trans (hs.2 h).2) id⟩⟩

/-- A new ratio with accumulator 0. -/
theorem State.PacerInv.of_newRatio {s t : State} (hs : s.PacerInv) (hmode : t.pins.linkMode = s.pins.linkMode)
    (hratio : s.pins.linkMode = .master →
      1 ≤ t.serial.ratioN.toNat ∧ 2 * t.serial.ratioN.toNat ≤ t.serial.ratioD.toNat)
    (ha : t.serial.accumulator = 0) (hdue : t.serial.strobeDue = s.serial.strobeDue) : t.PacerInv := by
  rw [State.pacerInv_iff] at hs ⊢
  rw [hmode, ha, hdue]
  refine ⟨fun h => ?_, fun h => ⟨rfl, (hs.2 h).2⟩⟩
  obtain ⟨h1, h2⟩ := hratio h
  exact ⟨h1, h2, by omega⟩

/-- An edge of the pacer leaves the ratio, and the accumulator below D (R111). -/
theorem Serializer.pace_inRange (z : Serializer) (h : 1 ≤ z.ratioN.toNat ∧ 2 * z.ratioN.toNat ≤ z.ratioD.toNat
      ∧ z.accumulator < z.ratioD.toNat) :
    1 ≤ z.pace.ratioN.toNat ∧ 2 * z.pace.ratioN.toNat ≤ z.pace.ratioD.toNat
      ∧ z.pace.accumulator < z.pace.ratioD.toNat := by
  unfold Serializer.pace
  dsimp only
  split <;> dsimp only <;> omega

/-- The boot ratio is one that the pacer can use (R52). -/
theorem bootGeometry_ratio :
    1 ≤ bootGeometry.ratioN.toNat ∧ 2 * bootGeometry.ratioN.toNat ≤ bootGeometry.ratioD.toNat := by decide

/-- Every move keeps the pacer in range. -/
theorem FormatMove.pacerInv {s t : State} (h : FormatMove s t) (he : s.EngineInv) (hs : s.FormatInv)
    (hp : s.PacerInv) : t.PacerInv := by
  have hmode := h.pins.2
  have hc := h.sameContents
  cases h with
  | same h => exact hp.of_sameRatio hmode (by rw [h.serial]) (by rw [h.serial]) (by rw [h.serial]) (by simp [h.serial])
  | startValidation | cancelSwitch | completeFound | completePassed =>
    apply hp.of_sameRatio hmode <;> simp [State.cancelSwitch, State.completeFound, State.completePassed]
  | stopPending tag _ _ _ => exact hp
  | refclkEdge order =>
    rw [State.pacerInv_iff] at hp ⊢
    rw [State.refclkEdge_serial, State.refclkEdge_pins]
    cases hm : s.pins.linkMode with
    | master => exact ⟨fun _ => s.serial.pace_inRange (hp.1 hm), nofun⟩
    | follower => exact ⟨nofun, fun _ => hp.2 hm⟩
  | beginFrame _ =>
    unfold State.frameBegun State.bootRatio
    split
    · exact hp.of_newRatio rfl (fun _ => bootGeometry_ratio) rfl rfl
    · exact hp
  | installBank x tag _ _ hsw =>
    obtain ⟨a, b, e⟩ := s.retireInForce_frame
    obtain ⟨g, hg, hgx, -, -⟩ := State.FormatInv.geometryOf_bank hs (.inr (he.pending hsw))
    have hgt : (s.installBank x tag).geometryOf (.bank x) = g := (State.geometryOf_of_sameContents hc _).trans hgx
    refine hp.of_newRatio hmode (fun hm => ?_) (by simp [State.installBank]) (by simp [State.installBank, e])
    change 1 ≤ ((s.installBank x tag).geometryOf (.bank x)).ratioN.toNat
      ∧ 2 * ((s.installBank x tag).geometryOf (.bank x)).ratioN.toNat
        ≤ ((s.installBank x tag).geometryOf (.bank x)).ratioD.toNat
    rw [hgt]
    exact Bank.ratio_of_wholeOk (hm ▸ hs.2.1 x (.inr (he.pending hsw))) hg
  | installBoot tag _ _ _ =>
    obtain ⟨a, b, e⟩ := s.retireInForce_frame
    exact hp.of_newRatio hmode (fun _ => bootGeometry_ratio) (by simp [State.installBoot])
      (by simp [State.installBoot, e])
  | handOver content _ => exact hp.of_sameRatio rfl rfl rfl rfl (.inr rfl)
  | shift w => exact hp.of_sameRatio rfl rfl rfl rfl (.inr rfl)

/-! ### Resets and edits keep the claims of the formats -/

theorem Bank.geometryOk_clear : Bank.clear.geometryOk = true := rfl

theorem geometryArgs_eq_some {args : List Byte} {g : Geometry} (h : geometryArgs args = some g) :
    8 ≤ g.width ∧ g.width ≤ 16 ∧ 4 ≤ g.length ∧ g.length ≤ 512 ∧ 1 ≤ g.depth ∧ g.depth ≤ 256 := by
  simp only [geometryArgs] at h
  split_ifs at h with hr
  cases h
  exact hr

/-- An edit leaves a geometry in range (R2, R3). -/
theorem Bank.Edited.geometryOk {args : List Byte} {b b' : Bank} (h : b.Edited args b') (hb : b.geometryOk = true) :
    b'.geometryOk = true := by
  cases h with
  | frame g hg => simpa [Bank.geometryOk, and_assoc] using geometryArgs_eq_some hg
  | clear => rfl
  | _ => exact hb

/-- An edit of an EDITABLE bank, with no validation in progress. -/
theorem State.setBank_formatInv {s : State} {x : BankId} {b : Bank} (he : s.EngineInv) (hs : s.FormatInv)
    (hv : s.validation = none) (hx : (s.bank x).state = .editable) (hb : b.state = .editable)
    (hgeo : b.geometryOk = true) : (s.setBank x b).FormatInv := by
  obtain ⟨hg, hwhole, -, hplace, hframe⟩ := hs
  have hforce : s.engine.inForce ≠ .bank x := by
    intro h
    rw [he.active h] at hx
    cases hx
  have hgeom : (s.setBank x b).geometry = s.geometry := by
    simp only [State.geometry, State.setBank_engine]
    cases hf : s.engine.inForce with
    | boot => rfl
    | bank y =>
      have hyx : y ≠ x := fun h => hforce (h ▸ hf)
      simp only [State.geometryOf, State.bank_setBank_ne s hyx]
  refine ⟨fun y => ?_, fun y hy => ?_, by simp [hv], by rw [hgeom]; simpa using hplace,
    by rw [hgeom]; simpa using hframe⟩
  · by_cases hyx : y = x
    · subst hyx
      rwa [State.bank_setBank]
    · rw [State.bank_setBank_ne s hyx]
      exact hg y
  · by_cases hyx : y = x
    · subst hyx
      rw [State.bank_setBank, hb] at hy
      simp at hy
    · rw [State.bank_setBank_ne s hyx] at hy ⊢
      rw [State.setBank_pins]
      exact hwhole y hy

/-- Boot in force at place 0, banks with geometries in range, none of them guarded: what every reset leaves. -/
theorem State.formatInv_of_reset {s : State} (hg : ∀ x, (s.bank x).geometryOk = true)
    (hb : ∀ x, (s.bank x).state = .editable) (he : s.engine = .reset) (hv : s.validation = none) : s.FormatInv := by
  have hgeom : s.geometry = bootGeometry := by simp [State.geometry, he, Engine.reset, State.geometryOf]
  refine ⟨hg, fun x hx => by simp [hb x] at hx, by simp [hv], ?_, ?_⟩
  · rw [hgeom, he]; decide
  · simp [he, Engine.reset]

/-- A RESTART keeps the contents of the banks (R158). -/
theorem State.restart_sameContents (s : State) (x : BankId) : (s.bank x).SameContents (s.restart.bank x) :=
  ⟨.editable, by cases x <;> simp [State.restart, State.ready, State.bank]⟩

theorem State.restart_formatInv {s : State} (hs : s.FormatInv) : s.restart.FormatInv := by
  apply State.formatInv_of_reset
  · exact fun x => (s.restart_sameContents x).geometryOk ▸ hs.1 x
  · intro x
    cases x <;> simp [State.restart, State.ready, State.bank]
  · simp [State.restart, State.ready]
  · simp [State.restart, State.ready]

theorem State.fullReset_formatInv (s : State) : s.fullReset.FormatInv := by
  apply State.formatInv_of_reset
  · intro x
    cases x <;> simp [State.fullReset, State.ready, State.bank, Bank.geometryOk_clear]
  · intro x
    cases x <;> simp [State.fullReset, State.ready, State.bank, Bank.clear]
  · simp [State.fullReset, State.ready]
  · simp [State.fullReset, State.ready]

theorem State.pinReset_formatInv (s : State) (lmode : Level) : (s.pinReset lmode).FormatInv :=
  State.formatInv_of_reset (fun x => by cases x <;> rfl) (fun x => by cases x <;> rfl) rfl rfl

theorem State.releaseReset_formatInv (s : State) (lmode lmode' adr1 adr0 : Level) :
    ((s.pinReset lmode').releaseReset lmode adr1 adr0).FormatInv := by
  apply State.formatInv_of_reset
  · intro x
    cases x <;> simp [State.releaseReset, State.ready, State.bank, State.pinReset, State.reset, Bank.geometryOk_clear]
  · intro x
    cases x <;> simp [State.releaseReset, State.ready, State.bank, State.pinReset, State.reset, Bank.clear]
  · simp [State.releaseReset, State.ready, State.pinReset, State.reset]
  · simp [State.releaseReset, State.ready, State.pinReset, State.reset]

theorem FormatStep.formatInv {s t : State} {i : Instr} (h : FormatStep s t i) (hr : s.ResetHeld) (he : s.EngineInv)
    (hs : s.FormatInv) : t.FormatInv := by
  cases h with
  | moves _ h =>
    exact (h.keeps (P := fun u => u.EngineInv ∧ u.FormatInv)
      (fun _ _ hm hu => ⟨hm.engineInv hu.1, hm.formatInv hu.1 hu.2⟩) ⟨he, hs⟩).2
  | edit _ args x b _ hv hx hb hsame =>
    exact hsame.formatInv (State.setBank_formatInv he hs hv hx (hb.state hx) (hb.geometryOk (hs.1 x)))
  | assert lmode e => exact e ▸ s.pinReset_formatInv lmode
  | release lmode adr1 adr0 hl e =>
    rw [e, hr hl]
    exact s.releaseReset_formatInv lmode _ adr1 adr0
  | restart u _ hu e => exact e ▸ State.restart_formatInv (hu.formatInv hs)
  | full u _ _ e => exact e ▸ u.fullReset_formatInv

/-- The boot ratio with accumulator 0 and no strobe due is in range in either mode. -/
theorem State.pacerInv_of_reset {s : State} (hn : s.serial.ratioN = 1) (hd : s.serial.ratioD = 64)
    (ha : s.serial.accumulator = 0) (hdue : s.serial.strobeDue = false) : s.PacerInv := by
  simp [State.pacerInv_iff, hn, hd, ha, hdue]

theorem FormatStep.pacerInv {s t : State} {i : Instr} (h : FormatStep s t i) (hr : s.ResetHeld) (he : s.EngineInv)
    (hs : s.FormatInv) (hp : s.PacerInv) : t.PacerInv := by
  cases h with
  | moves _ h =>
    exact (h.keeps (P := fun u => u.EngineInv ∧ u.FormatInv ∧ u.PacerInv)
      (fun _ _ hm hu => ⟨hm.engineInv hu.1, hm.formatInv hu.1 hu.2.1, hm.pacerInv hu.1 hu.2.1 hu.2.2⟩)
      ⟨he, hs, hp⟩).2.2
  | edit _ args x b _ _ _ _ hsame =>
    apply hp.of_sameRatio <;> simp [hsame.linkMode, hsame.serial]
  | assert lmode e => exact e ▸ State.pacerInv_of_reset rfl rfl rfl rfl
  | release lmode adr1 adr0 hl e =>
    rw [e, hr hl]
    apply State.pacerInv_of_reset <;> simp [State.releaseReset, State.ready, State.pinReset, Serializer.reset]
  | restart u _ hu e =>
    subst e
    apply hp.of_sameRatio <;> simp [State.restart, State.ready, hu.linkMode, hu.serial]
  | full u _ hu e =>
    subst e
    apply hp.of_sameRatio <;> simp [State.fullReset, State.ready, hu.linkMode, hu.serial]

/-! ### While RESETN is asserted (R66, R116, R160, R168) -/

/-- RESETN falls at its assertion alone. -/
theorem FormatStep.resetn_high {s t : State} {i : Instr} (h : FormatStep s t i)
    (hi : ∀ lmode, i ≠ .pinResetAssert lmode) (hs : s.pins.resetn = .high) : t.pins.resetn = .high := by
  cases h with
  | moves _ h => exact h.resetn.trans hs
  | edit _ args x b _ _ _ _ hsame => rw [hsame.resetn, State.setBank_pins, hs]
  | assert lmode e => exact absurd rfl (hi lmode)
  | release lmode adr1 adr0 _ e => rw [e]; simp [State.releaseReset, State.ready]
  | restart u _ hu e => rw [e]; simp [State.restart, State.ready, hu.resetn, hs]
  | full u _ hu e => rw [e]; simp [State.fullReset, State.ready, hu.resetn, hs]

/-- The rows that take a record of the command queue (R150). -/
def takesRecord : Instr → Bool
  | .pinResetAssert _ | .pinResetRelease _ _ _ | .messageCompletion | .wordFetch | .timeCounterAdvance
  | .validationCompletion | .ifrmFall | .iclkRisingEdge _ | .bitStrobe | .refclkRisingEdge _ => false
  | _ => true

/-- Where no record can be taken, no take does anything (R150; log 1). -/
theorem exec_of_not_takeable {i : Instr} (hi : takesRecord i = true) {s : State} (h : s.takeable = none) :
    exec i s = .next s := by
  have htake : ∀ want act, s.take want act = .next s := fun want act => by simp [State.take, h]
  cases hrow : catalogued i with
  | some c => exact (exec_row (row_of_catalogued hrow) s).trans (htake _ _)
  | none =>
  cases i with
  | unknownCommand => simp only [exec, execUnknownCommand, htake]
  | resetPartRestart | resetPartFull | resetPartRefused =>
    simp only [exec, execResetPartRestart, execResetPartFull, execResetPartRefused, htake]
  | pinResetAssert | pinResetRelease | messageCompletion | wordFetch | timeCounterAdvance | validationCompletion
  | ifrmFall | iclkRisingEdge | bitStrobe | refclkRisingEdge => cases hi
  | _ => cases hrow

theorem State.takeable_of_low {s : State} (h : s.pins.resetn = .low) : s.takeable = none := by
  simp [State.takeable, h]

theorem State.strobeOccurs_of_low {s : State} (h : s.pins.resetn = .low) : s.strobeOccurs = false := by
  simp [State.strobeOccurs, h]

theorem State.completeValidation_of_none {s : State} (h : s.validation = none) : s.completeValidation = s := by
  simp [State.completeValidation, h]

theorem State.advanceTime_of_ne {s : State} (h : s.timeBase.edge ≠ .advanceDue) : s.advanceTime = s := by
  have ht : s.timeBase.advance = s.timeBase := by
    unfold TimeBase.advance
    split
    · exact absurd ‹_› h
    · rfl
    · rfl
  rw [State.advanceTime, ht]

/-- A part at its pin-reset values changes at most the level of IFRM, until RESETN is asserted again or released. -/
theorem exec_of_resetHeld {s t : State} {i : Instr} (hl : s.pins.resetn = .low) (hr : s.ResetHeld)
    (h : exec i s = .next t) :
    (∃ ifrm, t = { s with pins := { s.pins with ifrm := ifrm } }) ∨ (∃ lmode, t = s.pinReset lmode)
      ∨ t.pins.resetn = .high := by
  have hsame : exec i s = .next s → ∃ ifrm, t = { s with pins := { s.pins with ifrm := ifrm } } := by
    intro e
    cases e.symm.trans h
    exact ⟨s.pins.ifrm, rfl⟩
  have hs := hr hl
  cases i with
  | pinResetAssert lmode =>
    cases h
    exact .inr (.inl ⟨lmode, rfl⟩)
  | pinResetRelease lmode adr1 adr0 =>
    simp only [exec, execPinResetRelease, hl] at h
    cases h
    exact .inr (.inr (by simp [State.releaseReset, State.ready]))
  | messageCompletion =>
    simp only [exec, execMessageCompletion] at h
    rw [if_neg (by simp [hl])] at h
    cases h
    exact .inl ⟨.high, rfl⟩
  | ifrmFall =>
    simp only [exec, execIfrmFall] at h
    split at h
    · cases h
      exact .inl ⟨s.pins.ifrm, rfl⟩
    · rw [if_neg (by simp [hl])] at h
      cases h
      exact .inl ⟨.low, rfl⟩
  | iclkRisingEdge idat => exact .inl (hsame (by simp [exec, execIclkRisingEdge, hl]))
  | wordFetch => exact .inl (hsame (by simp [exec, execWordFetch, State.strobeOccurs_of_low hl]))
  | bitStrobe => exact .inl (hsame (by simp [exec, execBitStrobe, State.strobeOccurs_of_low hl]))
  | timeCounterAdvance =>
    have he : s.timeBase.edge ≠ .advanceDue := by rw [hs]; exact nofun
    exact .inl (hsame (congrArg Host.Outcome.next (State.advanceTime_of_ne he)))
  | validationCompletion =>
    have hv : s.validation = none := by rw [hs]; rfl
    exact .inl (hsame (congrArg Host.Outcome.next (State.completeValidation_of_none hv)))
  | refclkRisingEdge order => exact .inl (hsame (by simp [exec, execRefclkRisingEdge, hl]))
  | _ => exact .inl (hsame (exec_of_not_takeable rfl (State.takeable_of_low hl)))

/-- Every command leaves a part whose RESETN is asserted at its pin-reset values. -/
theorem exec_resetHeld {s t : State} {i : Instr} (h : exec i s = .next t) (hr : s.ResetHeld) : t.ResetHeld := by
  intro ht
  cases hl : s.pins.resetn with
  | low =>
    rcases exec_of_resetHeld hl hr h with ⟨ifrm, rfl⟩ | ⟨lmode, rfl⟩ | hhigh
    · have hs := hr hl
      rw [hs]
      rfl
    · rfl
    · rw [hhigh] at ht
      cases ht
  | high =>
    by_cases hi : ∃ lmode, i = .pinResetAssert lmode
    · obtain ⟨lmode, rfl⟩ := hi
      cases h
      rfl
    · rw [(exec_formatStep h).resetn_high (fun lmode e => hi ⟨lmode, e⟩) hl] at ht
      cases ht

/-- Settles O56: every move, edit and reset keeps the claims of the formats and, with them, those of the pacer; with
RESETN asserted a command moves IFRM at most. -/
theorem stepsKeepFormatsAndPacer : Obligations.StepsKeepFormatsAndPacer := by
  intro s t h hr
  have hpending : ∀ (s : State) (rest : List Instr), s.ResetHeld → ({ s with pending := rest } : State).ResetHeld := by
    intro s rest hr hl
    have hs := hr hl
    change ({ s with pending := rest } : State) = { s.pinReset s.pins.lmode with pending := rest }
    rw [← hs]
  refine ⟨step_keeps hpending (fun _ _ _ => exec_resetHeld) h hr, fun he hs => ⟨?_, fun hp => ?_⟩⟩
  · exact (step_keeps (P := fun u => u.ResetHeld ∧ u.EngineInv ∧ u.FormatInv)
      (fun u rest hu => ⟨hpending u rest hu.1, hu.2⟩)
      (fun i u v huv hu => ⟨exec_resetHeld huv hu.1, (exec_formatStep huv).engineInv hu.2.1,
        (exec_formatStep huv).formatInv hu.1 hu.2.1 hu.2.2⟩) h ⟨hr, he, hs⟩).2.2
  · exact (step_keeps (P := fun u => u.ResetHeld ∧ u.EngineInv ∧ u.FormatInv ∧ u.PacerInv)
      (fun u rest hu => ⟨hpending u rest hu.1, hu.2⟩)
      (fun i u v huv hu => ⟨exec_resetHeld huv hu.1, (exec_formatStep huv).engineInv hu.2.1,
        (exec_formatStep huv).formatInv hu.1 hu.2.1 hu.2.2.1,
        (exec_formatStep huv).pacerInv hu.1 hu.2.1 hu.2.2.1 hu.2.2.2⟩) h ⟨hr, he, hs, hp⟩).2.2.2

end Sys2Proof.Machine

/-! ## The bank commands at their takes, and the contents of the banks (R1 to R15); the power-up state. -/

namespace Sys2Proof.Machine

/-! ### Takes of catalogued commands, answered -/

/-- The command `c`, whose row is `i`, is taken now as the record `r`, with a length that it accepts (R150, R151). -/
structure State.TakesNow (s : State) (r : CmdRecord) (c : Command) (i : Instr) : Prop where
  replyInv : s.ReplyInv
  takeable : s.takeable = some r
  code : r.code = c.code
  accepts : c.accepts r.args.length = true
  row : c.row = some i

namespace State.TakesNow

variable {s : State} {r : CmdRecord} {c : Command} {i : Instr}

theorem exec_eq (h : s.TakesNow r c i) : exec i s = .next (c.owner r (s.beginTake r)) :=
  exec_of_take h.row h.takeable h.code h.accepts

theorem replyNeed (h : s.TakesNow r c i) : replyNeed r = some c.maxReply := by
  refine replyNeed_of_code h.code ?_
  rintro rfl
  cases h.row

/-- An answer that changes the two queues alone. -/
theorem answered (h : s.TakesNow r c i) (st : Status) (payload : List Byte) :
    (s.beginTake r).reply r st payload = s.answered r st.code payload :=
  State.answered_of_take h.replyInv h.takeable h.replyNeed st payload

/-- An answer after a bank was written. -/
theorem answered_setBank (h : s.TakesNow r c i) (x : BankId) (b : Bank) (st : Status) (payload : List Byte) :
    ((s.beginTake r).setBank x b).reply r st payload = (s.answered r st.code payload).setBank x b := by
  rw [State.reply_of_take h.replyInv h.takeable h.replyNeed (by simp)]
  cases x <;> simp [State.answered, State.beginTake, State.setBank, h.replyNeed]

/-! The outcomes of an edit (R1, R13). -/

theorem exec_edit (h : s.TakesNow r c i) (he : c.edits = true) :
    exec i s = .next ((s.beginTake r).edit r (c.change r.args)) := by
  rw [h.exec_eq, Command.owner_of_edits he]

theorem edit_noBank (h : s.TakesNow r c i) (he : c.edits = true) (hx : bankOf (byteAt r.args 0) = none) :
    exec i s = .next (s.answered r 0x10 []) := by
  rw [h.exec_edit he, State.edit]
  simp only [hx, h.answered, Status.code]

theorem edit_active (h : s.TakesNow r c i) (he : c.edits = true) {x : BankId}
    (hx : bankOf (byteAt r.args 0) = some x) (hst : (s.bank x).state = .active) :
    exec i s = .next (s.answered r 0x13 []) := by
  rw [h.exec_edit he, State.edit]
  simp only [hx, State.beginTake_bank, hst, h.answered, Status.code]

theorem edit_pending (h : s.TakesNow r c i) (he : c.edits = true) {x : BankId}
    (hx : bankOf (byteAt r.args 0) = some x) (hst : (s.bank x).state = .pending) :
    exec i s = .next (s.answered r 0x14 []) := by
  rw [h.exec_edit he, State.edit]
  simp only [hx, State.beginTake_bank, hst, h.answered, Status.code]

theorem edit_refused (h : s.TakesNow r c i) (he : c.edits = true) {x : BankId}
    (hx : bankOf (byteAt r.args 0) = some x) (hst : (s.bank x).state = .editable)
    (hb : c.change r.args (s.bank x) = none) : exec i s = .next (s.answered r 0x10 []) := by
  rw [h.exec_edit he, State.edit]
  simp only [hx, State.beginTake_bank, hst, hb, h.answered, Status.code]

theorem edit_written (h : s.TakesNow r c i) (he : c.edits = true) {x : BankId}
    (hx : bankOf (byteAt r.args 0) = some x) (hst : (s.bank x).state = .editable) {b : Bank}
    (hb : c.change r.args (s.bank x) = some b) : exec i s = .next ((s.answered r 0x00 []).setBank x b) := by
  rw [h.exec_edit he, State.edit]
  simp only [hx, State.beginTake_bank, hst, hb, h.answered_setBank, Status.code]

end State.TakesNow

@[simp] theorem bankOf_selector (x : BankId) : bankOf x.selector = some x := by cases x <;> rfl

theorem bankOf_of_two_le {b : Byte} (h : 2 ≤ b.toNat) : bankOf b = none := by
  have h0 : b ≠ 0x00 := by rintro rfl; simp at h
  have h1 : b ≠ 0x01 := by rintro rfl; simp at h
  rw [bankOf, if_neg h0, if_neg h1]

/-- Settles O40: the five edits share their checks of R1 and R13. -/
theorem editsOfProtectedBanksAreRefused : Obligations.EditsOfProtectedBanksAreRefused := by
  intro s r c i selector rest hq ht hc hl hargs hmem
  obtain ⟨hrow, he⟩ : c.row = some i ∧ c.edits = true := by
    simp only [List.mem_cons, Prod.mk.injEq, List.not_mem_nil, or_false] at hmem
    rcases hmem with ⟨rfl, rfl⟩ | ⟨rfl, rfl⟩ | ⟨rfl, rfl⟩ | ⟨rfl, rfl⟩ | ⟨rfl, rfl⟩ <;> exact ⟨rfl, rfl⟩
  have htake : s.TakesNow r c i := ⟨hq, ht, hc, hl, hrow⟩
  have h0 : byteAt r.args 0 = selector := by rw [hargs, byteAt_cons_zero]
  refine ⟨fun hsel => htake.edit_noBank he (h0 ▸ bankOf_of_two_le hsel), ?_⟩
  rintro x rfl
  have hx : bankOf (byteAt r.args 0) = some x := by rw [h0, bankOf_selector]
  exact ⟨htake.edit_pending he hx, htake.edit_active he hx⟩

/-- Settles O45: an edit whose result is the cleared bank. -/
theorem clearBankEmptiesOneBank : Obligations.ClearBankEmptiesOneBank := by
  intro s r selector hq ht hc hargs
  have htake : s.TakesNow r .clearBank .clearBank := ⟨hq, ht, hc, by rw [hargs]; rfl, rfl⟩
  have h0 : byteAt r.args 0 = selector := by rw [hargs, byteAt_cons_zero]
  refine ⟨fun hsel => htake.edit_noBank rfl (h0 ▸ bankOf_of_two_le hsel), ?_⟩
  rintro x rfl
  have hx : bankOf (byteAt r.args 0) = some x := by rw [h0, bankOf_selector]
  exact ⟨htake.edit_active rfl hx, htake.edit_pending rfl hx, fun hst =>
    ⟨.clear, rfl, fun _ => rfl, fun _ => rfl, fun _ => rfl, rfl, htake.edit_written rfl hx hst rfl⟩⟩

/-! ### SET_FRAME (R3) -/

/-- A number is read back where its bytes stand. -/
theorem fieldAt_of_eq {args before after : List Byte} {k n : Nat} (h : args = before ++ bytesOf k n ++ after)
    (hn : n < 256 ^ k) : fieldAt args before.length k = n := by
  rw [h, fieldAt, List.append_assoc, List.drop_left, List.take_left' (length_bytesOf k n), natOfBytes_bytesOf,
    Nat.mod_eq_of_lt hn]

/-- Settles O41: each field of the arguments is read back where its bytes stand. -/
theorem setFrameReplacesTheGeometry : Obligations.SetFrameReplacesTheGeometry := by
  intro s r x w f c fill n d hq ht hc hargs hst
  have htake : s.TakesNow r .setFrame .setFrame :=
    ⟨hq, ht, hc, by rw [hargs]; simp [Command.accepts], rfl⟩
  have hx : bankOf (byteAt r.args 0) = some x := by rw [hargs]; simp
  have hgeo : geometryArgs r.args = if 8 ≤ w.toNat ∧ w.toNat ≤ 16 ∧ 4 ≤ f.toNat ∧ f.toNat ≤ 512 ∧ 1 ≤ c.toNat
      ∧ c.toNat ≤ 256 then some ⟨w.toNat, f.toNat, c.toNat, fill, n, d⟩ else none := by
    have hf : fieldAt r.args 2 2 = f.toNat := fieldAt_of_eq (before := [x.selector, w])
      (by rw [hargs]; simp only [List.append_assoc]; rfl) f.isLt
    have hc : fieldAt r.args 4 2 = c.toNat := fieldAt_of_eq (before := [x.selector, w] ++ bytesOf 2 f.toNat)
      (by rw [hargs]; simp only [List.append_assoc]; rfl) c.isLt
    have hfill : fieldAt r.args 6 2 = fill.toNat := fieldAt_of_eq
      (before := [x.selector, w] ++ bytesOf 2 f.toNat ++ bytesOf 2 c.toNat)
      (by rw [hargs]; simp only [List.append_assoc]; rfl) fill.isLt
    have hn : fieldAt r.args 8 2 = n.toNat := fieldAt_of_eq
      (before := [x.selector, w] ++ bytesOf 2 f.toNat ++ bytesOf 2 c.toNat ++ bytesOf 2 fill.toNat) hargs n.isLt
    have hd : fieldAt r.args 10 3 = d.toNat := fieldAt_of_eq
      (before := [x.selector, w] ++ bytesOf 2 f.toNat ++ bytesOf 2 c.toNat ++ bytesOf 2 fill.toNat
        ++ bytesOf 2 n.toNat) (after := []) (by rw [hargs, List.append_nil]) d.isLt
    have hw : byteAt r.args 1 = w := by rw [hargs]; simp
    simp only [geometryArgs, hf, hc, hfill, hn, hd, hw, BitVec.ofNat_toNat, BitVec.setWidth_eq]
  split
  · rename_i hr
    exact htake.edit_written rfl hx hst (by simp [Command.change, Bank.setFrame, hgeo, hr])
  · rename_i hr
    exact htake.edit_refused rfl hx hst (by simp [Command.change, Bank.setFrame, hgeo, hr])

/-! ### Groups of argument bytes (R7, R9, R11, R172) -/

theorem length_flatten_of_forall {α : Type} {k : Nat} {groups : List (List α)} (h : ∀ g ∈ groups, g.length = k) :
    groups.flatten.length = k * groups.length := by
  induction groups with
  | nil => rfl
  | cons g groups ih =>
    rw [List.flatten_cons, List.length_append, h g (by simp), ih fun g' hg => h g' (by simp [hg]), List.length_cons]
    ring

theorem groupsOf_flatten {k : Nat} {groups : List (List Byte)} (h : ∀ g ∈ groups, g.length = k) :
    groupsOf k groups.length groups.flatten = groups := by
  induction groups with
  | nil => rfl
  | cons g groups ih =>
    have hg := h g (by simp)
    rw [List.length_cons, groupsOf, List.flatten_cons, List.take_left' hg, List.drop_left' hg,
      ih fun g' hg => h g' (by simp [hg])]

/-- The groups that follow a head of `off` bytes. -/
theorem groupsOf_args {off k : Nat} (hk : 0 < k) {args head : List Byte} {groups : List (List Byte)}
    (hargs : args = head ++ groups.flatten) (hhead : head.length = off) (h : ∀ g ∈ groups, g.length = k) :
    groupsOf k ((args.length - off) / k) (args.drop off) = groups := by
  have hlen : (args.length - off) / k = groups.length := by
    rw [hargs, List.length_append, hhead, length_flatten_of_forall h, Nat.add_sub_cancel_left,
      Nat.mul_div_cancel_left _ hk]
  rw [hlen, hargs, List.drop_left' hhead, groupsOf_flatten h]

theorem allPresent_eq_some {α : Type} {l : List (Option α)} {as : List α} :
    allPresent l = some as ↔ l = as.map some := by
  induction l generalizing as with
  | nil => cases as <;> simp [allPresent]
  | cons a l ih =>
    cases a with
    | none => cases as <;> simp [allPresent]
    | some a =>
      cases as with
      | nil => simp [allPresent]
      | cons a' as => simp [allPresent, ih, and_comm]

/-- The descriptors of an argument list: every group spells one, and each passes the write-time check. -/
theorem slotArgs_eq_some {off : Nat} {args head : List Byte} {groups : List (List Byte)}
    (hargs : args = head ++ groups.flatten) (hhead : head.length = off) (h : ∀ g ∈ groups, g.length = 6)
    {ds : List Slot} :
    slotArgs off args = some ds ↔ groups.map decodeSlot = ds.map some ∧ ∀ d ∈ ds, d.accepted = true := by
  rw [slotArgs, groupsOf_args (by decide) hargs hhead h, Option.filter_eq_some_iff, allPresent_eq_some]
  simp

theorem accepted_of_slotArgs {off : Nat} {args : List Byte} {ds : List Slot} (h : slotArgs off args = some ds) :
    ∀ d ∈ ds, d.accepted = true := by
  rw [slotArgs, Option.filter_eq_some_iff] at h
  simpa using h.2

theorem accepted_of_pickArgs {args : List Byte} {ps : List Pick} (h : pickArgs args = some ps) :
    ∀ p ∈ ps, p.accepted = true := by
  simp only [pickArgs] at h
  split_ifs at h with hall
  cases h
  simpa using hall

/-- Where every group spells a descriptor of the list, so does any one. -/
theorem exists_of_map_decodeSlot {groups : List (List Byte)} {ds : List Slot}
    (h : groups.map decodeSlot = ds.map some) {g : List Byte} (hg : g ∈ groups) : ∃ d ∈ ds, decodeSlot g = some d := by
  have hm : decodeSlot g ∈ ds.map some := h ▸ List.mem_map_of_mem hg
  obtain ⟨d, hd, e⟩ := List.mem_map.1 hm
  exact ⟨d, hd, e.symm⟩

theorem length_of_map_decodeSlot {groups : List (List Byte)} {ds : List Slot}
    (h : groups.map decodeSlot = ds.map some) : ds.length = groups.length := by
  simpa using (congrArg List.length h).symm

/-! ### WRITE_SLOTS (R7) -/

theorem Slot.accepted_iff (d : Slot) : d.accepted = true ↔ match d with
    | .empty | .const _ | .fill | .frameIndex | .frameCount | .health | .reply => True
    | .time shift width => shift ≤ 47 ∧ 1 ≤ width ∧ width ≤ 16 ∧ shift + width ≤ 48
    | .channel c _ _ shift width =>
      1 ≤ c ∧ c ≤ 1023 ∧ shift ≤ 23 ∧ 1 ≤ width ∧ width ≤ 16 ∧ shift + width ≤ 24
    | .packed a n => a ≤ 511 ∧ 1 ≤ n ∧ n ≤ 16 ∧ a + n ≤ 512
    | .rotate l => l ≤ 31 := by
  cases d <;> simp [Slot.accepted, channelOk, and_assoc]

/-- The first number that a WRITE_SLOTS or WRITE_PICKS carries. -/
theorem fieldAt_first {x : BankId} {first : BitVec 16} {args rest : List Byte}
    (hargs : args = [x.selector] ++ bytesOf 2 first.toNat ++ rest) : fieldAt args 1 2 = first.toNat :=
  fieldAt_of_eq (before := [x.selector]) hargs first.isLt

/-- Settles O42: the groups of six bytes are decoded together, and one that is refused refuses the whole. -/
theorem writeSlotsWritesTheTemplate : Obligations.WriteSlotsWritesTheTemplate := by
  refine ⟨Slot.accepted_iff, ?_⟩
  intro s r x first groups hq ht hc hst hargs hmin hmax hlen
  have hhead : ([x.selector] ++ bytesOf 2 first.toNat).length = 3 := by simp
  have htake : s.TakesNow r .writeSlots .writeSlots := by
    refine ⟨hq, ht, hc, ?_, rfl⟩
    rw [hargs, List.length_append, hhead, length_flatten_of_forall hlen]
    simp only [Command.accepts, Bool.and_eq_true, decide_eq_true_eq, beq_iff_eq]
    omega
  have hx : bankOf (byteAt r.args 0) = some x := by rw [hargs]; simp
  have hfirst := fieldAt_first hargs
  have hslots := fun ds => slotArgs_eq_some hargs hhead hlen (ds := ds)
  refine ⟨fun ds hds hacc hrange hwf => ?_, fun hrange => ?_, ?_⟩
  · refine ⟨Table.putAll .empty (s.bank x).template first.toNat ds, Table.wf_putAll hwf,
      fun p => Table.get_putAll hwf, ?_⟩
    refine htake.edit_written rfl hx hst ?_
    have hpos : 1 ≤ ds.length := length_of_map_decodeSlot hds ▸ hmin
    simp only [Command.change, Bank.writeSlots, (hslots ds).2 ⟨hds, hacc⟩, hfirst]
    rw [if_pos ⟨by omega, hrange⟩]
  · refine htake.edit_refused rfl hx hst ?_
    cases hsa : slotArgs 3 r.args with
    | none => simp [Command.change, Bank.writeSlots, hsa]
    | some ds =>
      have hl := length_of_map_decodeSlot ((hslots ds).1 hsa).1
      simp only [Command.change, Bank.writeSlots, hsa, hfirst]
      rw [if_neg (by omega)]
  · rintro ⟨g, hg, hbad⟩
    refine htake.edit_refused rfl hx hst ?_
    cases hsa : slotArgs 3 r.args with
    | none => simp [Command.change, Bank.writeSlots, hsa]
    | some ds =>
      obtain ⟨hmap, hacc⟩ := (hslots ds).1 hsa
      obtain ⟨d, hd, e⟩ := exists_of_map_decodeSlot hmap hg
      exact absurd (hacc d hd) (by simp [hbad d e])

/-! ### WRITE_PICKS (R11) -/

theorem Pick.accepted_iff (p : Pick) : p.accepted = true ↔ match p with
    | .unset | .zero | .one => True
    | .channelBit c b _ => 1 ≤ c ∧ c ≤ 1023 ∧ b ≤ 23 := by
  cases p <;> simp [Pick.accepted, channelOk, and_assoc]

/-- Settles O44, by the same division into groups, of three bytes. -/
theorem writePicksWritesThePickTable : Obligations.WritePicksWritesThePickTable := by
  refine ⟨Pick.accepted_iff, ?_⟩
  intro s r x first groups hq ht hc hst hargs hmin hmax hlen a ps
  have hhead : ([x.selector] ++ bytesOf 2 first.toNat).length = 3 := by simp
  have htake : s.TakesNow r .writePicks .writePicks := by
    refine ⟨hq, ht, hc, ?_, rfl⟩
    rw [hargs, List.length_append, hhead, length_flatten_of_forall hlen]
    simp only [Command.accepts, Bool.and_eq_true, decide_eq_true_eq, beq_iff_eq]
    omega
  have hx : bankOf (byteAt r.args 0) = some x := by rw [hargs]; simp
  have hfirst : fieldAt r.args 1 2 = a := fieldAt_first hargs
  have hpicks : pickArgs r.args = if ps.all Pick.accepted then some ps else none := by
    simp only [pickArgs, groupsOf_args (by decide) hargs hhead hlen, ps]
  have hpos : 1 ≤ ps.length := by simpa [ps] using hmin
  refine ⟨fun hacc hrange hwf => ?_, fun hrange => ?_, ?_⟩
  · refine ⟨Table.putAll .unset (s.bank x).picks a ps, Table.wf_putAll hwf, fun p => Table.get_putAll hwf, ?_⟩
    refine htake.edit_written rfl hx hst ?_
    simp only [Command.change, Bank.writePicks, hpicks, List.all_eq_true.2 hacc, hfirst, if_true]
    rw [if_pos ⟨by omega, hrange⟩]
  · refine htake.edit_refused rfl hx hst ?_
    simp only [Command.change, Bank.writePicks, hpicks, hfirst]
    by_cases hall : ps.all Pick.accepted = true
    · simp only [hall, if_true]
      rw [if_neg (by omega)]
    · simp [hall]
  · rintro ⟨p, hp, hbad⟩
    refine htake.edit_refused rfl hx hst ?_
    have hall : ¬ ps.all Pick.accepted = true := fun hall => by
      rw [List.all_eq_true.1 hall p hp] at hbad
      cases hbad
    simp [Command.change, Bank.writePicks, hpicks, hall]

/-! ### WRITE_ROTATION (R9) -/

@[simp] theorem length_listResized (list : List Slot) (n : Nat) : (listResized list n).length = n := by
  simp [listResized]
  omega

/-- A resized list holds the old entries as far as there are any, then EMPTY. -/
theorem getElem_listResized (list : List Slot) (n i : Nat) (h : i < (listResized list n).length) :
    (listResized list n)[i] = list.getD i .empty := by
  have hi : i < n := by simpa using h
  simp only [listResized, List.getElem_append, List.getElem_take, List.getElem_replicate, List.length_take,
    List.getD_eq_getElem?_getD]
  split
  · rw [List.getElem?_eq_getElem (by omega)]; rfl
  · rw [List.getElem?_eq_none (by omega)]; rfl

/-- The list after a WRITE_ROTATION, entry by entry. -/
theorem listWritten_listResized (old ds : List Slot) (len e : Nat) (h : ds = [] ∨ e + ds.length ≤ len) :
    listWritten (listResized old len) e ds = (List.range len).map fun i =>
      if i < e then old.getD i .empty else ds.getD (i - e) (old.getD i .empty) := by
  unfold listWritten
  split
  · rename_i hds
    subst hds
    refine List.ext_getElem (by simp) fun i h1 h2 => ?_
    simp [getElem_listResized]
  · rename_i hds
    have he : e + ds.length ≤ len := h.resolve_left hds
    refine List.ext_getElem (by simp; omega) fun i h1 h2 => ?_
    have hi : i < len := by simpa using h2
    simp only [List.getElem_append, List.getElem_take, List.getElem_drop, getElem_listResized, List.getElem_map,
      List.getElem_range, List.length_append, List.length_take, length_listResized]
    rcases lt_or_ge i e with hlt | hge
    · simp [hlt, hi, show i < min e len + ds.length by omega]
    · by_cases hd : i < e + ds.length
      · have hid : i - e < ds.length := by omega
        simp [show min e len = e by omega, hd, not_lt.2 hge, hid]
      · have hid : ¬ i - e < ds.length := by omega
        have hidx : e + ds.length + (i - (e + ds.length)) = i := by omega
        simp [show min e len = e by omega, hd, not_lt.2 hge, hid, hidx]

theorem Slot.listable_iff (d : Slot) :
    d.listable = true ↔ (∀ m, d ≠ .rotate m) ∧ d ≠ .reply ∧ d ≠ .health ∧ d ≠ .frameIndex := by
  cases d <;> simp [Slot.listable]

/-- Settles O43: the list is compared entry by entry. -/
theorem writeRotationWritesOneList : Obligations.WriteRotationWritesOneList := by
  intro s r x l len e groups hq ht hc hst hargs hmax hlen old inRange good
  have hhead : [x.selector, l, len, e].length = 4 := rfl
  have htake : s.TakesNow r .writeRotation .writeRotation := by
    refine ⟨hq, ht, hc, ?_, rfl⟩
    rw [hargs, List.length_append, hhead, length_flatten_of_forall hlen]
    simp only [Command.accepts, Bool.and_eq_true, decide_eq_true_eq, beq_iff_eq]
    omega
  have hx : bankOf (byteAt r.args 0) = some x := by rw [hargs]; simp
  have hl : byteAt r.args 1 = l := by rw [hargs]; simp
  have hn : byteAt r.args 2 = len := by rw [hargs]; simp
  have he : byteAt r.args 3 = e := by rw [hargs]; simp
  have hslots := fun ds => slotArgs_eq_some hargs hhead hlen (ds := ds)
  have hgood : ∀ d, good d ↔ d.accepted = true ∧ d.listable = true := fun d => by rw [Slot.listable_iff]
  have hempty : ∀ {ds : List Slot}, ds.length = groups.length → (ds = [] ↔ groups = []) := by
    intro ds h
    rw [← List.length_eq_zero_iff, ← List.length_eq_zero_iff, h]
  refine ⟨fun ds hds hall hrange hwf => ?_, fun hrange => ?_, ?_⟩
  · have hlds := length_of_map_decodeSlot hds
    obtain ⟨hr1, hr2, hr3⟩ := hrange
    have hfit : ds = [] ∨ e.toNat + ds.length ≤ len.toNat := by rwa [hempty hlds, hlds]
    refine ⟨_, Table.wf_put hwf, fun m => ?_, htake.edit_written rfl hx hst (b := { s.bank x with
      rotation := Table.put [] (s.bank x).rotation l.toNat (listWritten (listResized old len.toNat) e.toNat ds) }) ?_⟩
    · rw [Table.get_put hwf, listWritten_listResized old ds _ _ hfit]
    · have hlist : ds.all Slot.listable = true := List.all_eq_true.2 fun d hd => ((hgood d).1 (hall d hd)).2
      simp only [Command.change, Bank.writeRotation, (hslots ds).2 ⟨hds, fun d hd => (hall d hd).1⟩, hl, hn, he]
      rw [if_pos ⟨hr1, hr2, hfit, hlist⟩]
  · refine htake.edit_refused rfl hx hst ?_
    cases hsa : slotArgs 4 r.args with
    | none => simp [Command.change, Bank.writeRotation, hsa]
    | some ds =>
      have hlds := length_of_map_decodeSlot ((hslots ds).1 hsa).1
      simp only [Command.change, Bank.writeRotation, hsa, hl, hn, he]
      rw [if_neg]
      rintro ⟨h1, h2, h3, -⟩
      exact hrange ⟨h1, h2, by rwa [hempty hlds, hlds] at h3⟩
  · rintro ⟨g, hg, hbad⟩
    refine htake.edit_refused rfl hx hst ?_
    cases hsa : slotArgs 4 r.args with
    | none => simp [Command.change, Bank.writeRotation, hsa]
    | some ds =>
      obtain ⟨hmap, hacc⟩ := (hslots ds).1 hsa
      obtain ⟨d, hd, hde⟩ := exists_of_map_decodeSlot hmap hg
      simp only [Command.change, Bank.writeRotation, hsa]
      rw [if_neg]
      rintro ⟨-, -, -, hlist⟩
      exact hbad d hde ((hgood d).2 ⟨hacc d hd, List.all_eq_true.1 hlist d hd⟩)

/-! ### READ_BANK (R15) -/

/-- The two bytes of an index spell it, and it is spelt by them. -/
theorem natOfBytes_pair (i j : Byte) : natOfBytes [i, j] = i.toNat * 256 + j.toNat := by
  simp [natOfBytes]

theorem bytesOf_pair (i j : Byte) : bytesOf 2 (i.toNat * 256 + j.toNat) = [i, j] := by
  have hi := i.isLt
  have hj := j.isLt
  simp only [bytesOf, List.cons.injEq, and_true]
  constructor <;> apply BitVec.eq_of_toNat_eq <;> simp <;> omega

theorem Bank.geometryPayload_eq (b : Bank) : b.geometryPayload =
    (match b.state with | .editable => 0x00 | .validating => 0x01 | .pending => 0x02 | .active => 0x03) ::
      match b.geometry with
      | none => List.replicate 13 0
      | some g => [0x01, BitVec.ofNat 8 g.width] ++ bytesOf 2 g.length ++ bytesOf 2 g.depth
          ++ bytesOf 2 g.fill.toNat ++ bytesOf 2 g.ratioN.toNat ++ bytesOf 3 g.ratioD.toNat := by
  unfold Bank.geometryPayload
  cases b.state <;> cases b.geometry <;> rfl

/-- Settles O46: a selector that names no bank, or the payload of the part that the arguments name. -/
theorem readBankReportsContents : Obligations.ReadBankReportsContents := by
  intro s r selector what i j hq ht hc hargs index
  have htake : s.TakesNow r .readBank .readBank := ⟨hq, ht, hc, by rw [hargs]; rfl, rfl⟩
  have h0 : byteAt r.args 0 = selector := by rw [hargs]; rfl
  have h1 : byteAt r.args 1 = what := by rw [hargs]; rfl
  have h2 : byteAt r.args 2 = i := by rw [hargs]; rfl
  have h3 : byteAt r.args 3 = j := by rw [hargs]; rfl
  have hindex : fieldAt r.args 2 2 = index := by rw [hargs]; exact natOfBytes_pair i j
  have hbytes : bytesOf 2 index = [i, j] := bytesOf_pair i j
  have hnone : bankOf selector = none → exec .readBank s = .next (s.answered r 0x10 []) := by
    intro hb
    rw [htake.exec_eq]
    simp only [Command.owner, State.readBank, h0, hb, htake.answered, Status.code]
  have hread : ∀ x, bankOf selector = some x → exec .readBank s = .next (
      match (s.bank x).readPayload r.args with
      | none => s.answered r 0x10 []
      | some payload => s.answered r 0x00 payload) := by
    intro x hb
    rw [htake.exec_eq]
    simp only [Command.owner, State.readBank, h0, hb, State.beginTake_bank]
    cases (s.bank x).readPayload r.args <;> simp only [htake.answered, Status.code]
  refine ⟨fun h => ?_, ?_⟩
  · cases hb : bankOf selector with
    | none => exact hnone hb
    | some x =>
      have hwhat : 4 ≤ what.toNat := h.resolve_left fun hs => by simp [bankOf_of_two_le hs] at hb
      have hp : (s.bank x).readPayload r.args = none := by
        simp only [Bank.readPayload, h1]
        split
        case h_5 => rfl
        all_goals omega
      rw [hread x hb, hp]
  · rintro x rfl b
    have hx := hread x (bankOf_selector x)
    refine ⟨?_, ?_, ?_, ?_⟩ <;> rintro rfl <;> rw [hx]
    · simp only [Bank.readPayload, h1]
      exact congrArg (fun payload => Host.Outcome.next (s.answered r 0x00 payload)) b.geometryPayload_eq
    · by_cases h : index ≤ 511 <;>
        simp [b, Bank.readPayload, h1, hindex, hbytes, Table.run_eq, List.flatMap_map, h]
    · by_cases h : i.toNat ≤ 31 ∧ j.toNat ≤ 63 <;> simp [b, Bank.readPayload, h1, h2, h3, h]
    · by_cases h : index ≤ 511 <;>
        simp [b, Bank.readPayload, h1, hindex, hbytes, Table.run_eq, List.flatMap_map, h]

/-! ### Bank contents (R4, R8, R10, R13) -/

/-- What is listed after a write was listed before, or is what was written. -/
theorem Table.mem_put {α : Type} [DecidableEq α] {d : α} {t : Table α} {i : Nat} {v : α} {e : Nat × α}
    (h : e ∈ Table.put d t i v) : e ∈ t ∨ e = (i, v) := by
  have hcons : ∀ {u : Table α}, e ∈ Table.cons d i v u → e ∈ u ∨ e = (i, v) := by
    intro u hu
    unfold Table.cons at hu
    split at hu
    · exact .inl hu
    · exact (List.mem_cons.1 hu).symm
  induction t with
  | nil => exact hcons h
  | cons e' t ih =>
    obtain ⟨k, w⟩ := e'
    unfold Table.put at h
    split at h
    · exact hcons h
    · split at h
      · exact (hcons h).imp_left (List.mem_cons_of_mem _)
      · rcases List.mem_cons.1 h with rfl | h
        · exact .inl List.mem_cons_self
        · exact (ih h).imp_left (List.mem_cons_of_mem _)

/-- What is listed after a run of writes was listed before, or is one of the contents written, at its number. -/
theorem Table.mem_putAll {α : Type} [DecidableEq α] {d : α} {t : Table α} {i : Nat} {vs : List α} {e : Nat × α}
    (h : e ∈ Table.putAll d t i vs) : e ∈ t ∨ (e.1 < i + vs.length ∧ e.2 ∈ vs) := by
  induction vs generalizing t i with
  | nil => exact .inl h
  | cons v vs ih =>
    rcases ih h with h | ⟨hlt, hmem⟩
    · rcases Table.mem_put h with h | rfl
      · exact .inl h
      · exact .inr ⟨by simp, by simp⟩
    · exact .inr ⟨by simp only [List.length_cons]; omega, by simp [hmem]⟩

/-- The entries of a list after a WRITE_ROTATION: old ones, EMPTY, or those written. -/
theorem mem_listWritten_listResized {old ds : List Slot} {len e : Nat} {d : Slot}
    (h : d ∈ listWritten (listResized old len) e ds) : d ∈ old ∨ d = .empty ∨ d ∈ ds := by
  have hres : d ∈ listResized old len → d ∈ old ∨ d = .empty := by
    intro h
    rcases List.mem_append.1 h with h | h
    · exact .inl (List.mem_of_mem_take h)
    · exact .inr (List.eq_of_mem_replicate h)
  unfold listWritten at h
  split at h
  · exact (hres h).imp_right .inl
  · rcases List.mem_append.1 h with h | h
    · rcases List.mem_append.1 h with h | h
      · exact (hres (List.mem_of_mem_take h)).imp_right .inl
      · exact .inr (.inr h)
    · exact (hres (List.mem_of_mem_drop h)).imp_right .inl

theorem length_listWritten_listResized {old ds : List Slot} {len e : Nat} (h : ds = [] ∨ e + ds.length ≤ len) :
    (listWritten (listResized old len) e ds).length = len := by
  rw [listWritten_listResized old ds len e h, List.length_map, List.length_range]

theorem Bank.clear_ok : Bank.clear.Ok := by
  simp [Bank.Ok, Bank.clear]

/-- An edit leaves contents that the write commands accept, in canonical tables. -/
theorem Bank.Edited.ok {args : List Byte} {b b' : Bank} (h : b.Edited args b') (hb : b.Ok) : b'.Ok := by
  obtain ⟨htw, ht, hrw, hr, hpw, hp⟩ := hb
  cases h with
  | frame g _ => exact ⟨htw, ht, hrw, hr, hpw, hp⟩
  | clear => exact Bank.clear_ok
  | slots ds hds hrange =>
    refine ⟨Table.wf_putAll htw, fun e he => ?_, hrw, hr, hpw, hp⟩
    rcases Table.mem_putAll he with he | ⟨hlt, hmem⟩
    · exact ht e he
    · exact ⟨by omega, accepted_of_slotArgs hds _ hmem⟩
  | picks ps hps hrange =>
    refine ⟨htw, ht, hrw, hr, Table.wf_putAll hpw, fun e he => ?_⟩
    rcases Table.mem_putAll he with he | ⟨hlt, hmem⟩
    · exact hp e he
    · exact ⟨by omega, accepted_of_pickArgs hps _ hmem⟩
  | rotation l len e ds hds hl hlen hfit hlist =>
    refine ⟨htw, ht, Table.wf_put hrw, fun f hf => ?_, hpw, hp⟩
    rcases Table.mem_put hf with hf | rfl
    · exact hr f hf
    · refine ⟨hl, (length_listWritten_listResized hfit).trans_le hlen, fun d hd => ?_⟩
      rcases mem_listWritten_listResized hd with hd | rfl | hd
      · rcases Table.get_mem_or (d := []) b.rotation l with hmem | hnil
        · exact (hr _ hmem).2.2 d hd
        · simp [hnil] at hd
      · exact ⟨rfl, rfl⟩
      · exact ⟨accepted_of_slotArgs hds d hd, List.all_eq_true.1 hlist d hd⟩

theorem Bank.SameContents.ok {b b' : Bank} (h : b.SameContents b') (hb : b.Ok) : b'.Ok := by
  obtain ⟨st, rfl⟩ := h
  exact hb

/-- The two banks as one claim. -/
theorem State.bankInv_iff (s : State) : s.BankInv ↔ ∀ x, (s.bank x).Ok :=
  ⟨fun h x => by cases x; exacts [h.1, h.2], fun h => ⟨h .a, h .b⟩⟩

theorem State.fullReset_bank (s : State) (x : BankId) : s.fullReset.bank x = .clear := by
  cases x <;> simp [State.fullReset, State.ready, State.bank]

theorem State.releaseReset_bank (s : State) (lmode adr1 adr0 : Level) (x : BankId) :
    (s.releaseReset lmode adr1 adr0).bank x = s.bank x := by
  cases x <;> simp [State.releaseReset, State.ready, State.bank]

/-- What a command does to a bank: it keeps its contents, or edits it while it is EDITABLE, or clears it at a pin reset
or a FULL reset. -/
theorem FormatStep.bank {s t : State} {i : Instr} (h : FormatStep s t i) (x : BankId) :
    (s.bank x).SameContents (t.bank x)
    ∨ ((s.bank x).state = .editable ∧ ∃ args, (s.bank x).Edited args (t.bank x))
    ∨ (t.bank x = .clear ∧ ((∃ lmode, i = .pinResetAssert lmode) ∨ i = .resetPartFull)) := by
  cases h with
  | moves _ h => exact .inl (h.sameContents x)
  | edit _ args y b _ _ hy hb hsame =>
    rw [hsame.bank]
    by_cases hxy : x = y
    · subst hxy
      rw [State.bank_setBank]
      exact .inr (.inl ⟨hy, args, hb⟩)
    · rw [State.bank_setBank_ne s hxy]
      exact .inl (.refl _)
  | assert lmode e => exact .inr (.inr ⟨by rw [e]; cases x <;> rfl, .inl ⟨lmode, rfl⟩⟩)
  | release lmode adr1 adr0 _ e => exact .inl (by rw [e, State.releaseReset_bank]; exact .refl _)
  | restart u _ hu e => exact .inl (by rw [e, ← hu.bank]; exact u.restart_sameContents x)
  | full u _ _ e => exact .inr (.inr ⟨by rw [e, State.fullReset_bank], .inr rfl⟩)

/-- Settles O58: the three things that a command can do to a bank. -/
theorem bankContentsAreProtected : Obligations.BankContentsAreProtected := by
  refine ⟨fun s t h hs => ?_, fun i s t x h hx hassert hfull => ?_⟩
  · refine step_keeps (P := State.BankInv) (fun _ _ hs => hs) (fun i s t h hs => ?_) h hs
    rw [State.bankInv_iff] at hs ⊢
    intro x
    rcases (exec_formatStep h).bank x with hc | ⟨-, args, he⟩ | ⟨hclear, -⟩
    · exact hc.ok (hs x)
    · exact he.ok (hs x)
    · exact hclear ▸ Bank.clear_ok
  · rcases (exec_formatStep h).bank x with ⟨st, e⟩ | ⟨hst, -⟩ | ⟨-, ⟨lmode, rfl⟩ | rfl⟩
    · rw [e]
    · exact absurd hst hx
    · exact absurd rfl (hassert lmode)
    · exact absurd rfl hfull

/-! ### Power-up (R25, R26, R91, R93, R108, R116, R123, R146, R160, R168) -/

/-- Settles O3: the power-up state is a pin-reset state, so what resets leave holds of it; the rest is read off. -/
theorem resetMeetsTheInvariants : Obligations.ResetMeetsTheInvariants := by
  have hreset : State.reset = State.reset.pinReset .low := rfl
  refine ⟨by decide, by decide, ?_, ?_, ?_, by decide, by decide, ?_, by decide, by decide, by decide,
    ⟨Bank.clear_ok, Bank.clear_ok⟩, fun _ => rfl, by decide⟩
  · decide
  · exact hreset ▸ State.reset.pinReset_engineInv .low
  · exact hreset ▸ State.reset.pinReset_formatInv .low
  · exact State.pacerInv_of_reset rfl rfl rfl rfl

end Sys2Proof.Machine

/-! ## The REFCLK edge: pacer, prescaler, and what earlier edges left (R111, R118, R121). -/

namespace Sys2Proof.Machine

/-! ### The REFCLK edge (R16, R111, R118, R121) -/

theorem TimeBase.advance_edge (t : TimeBase) : t.advance.edge ≠ .advanceDue := by
  unfold TimeBase.advance
  split <;> simp [*]

theorem TimeBase.takeEdge_edge (t : TimeBase) : t.takeEdge.edge ≠ .afterStrobe := by
  unfold TimeBase.takeEdge
  split
  · simp [*]
  · split <;> simp
  · split <;> simp

theorem TimeBase.takeEdge_eq {t : TimeBase} (h : t.edge ≠ .taken) : t.takeEdge =
    if t.count + 1 < t.prescaler then { t with count := t.count + 1, edge := .taken }
    else { t with edge := .advanceDue } := by
  unfold TimeBase.takeEdge
  split
  · exact absurd ‹_› h
  · rfl
  · rfl

theorem TimeBase.advance_eq {t : TimeBase} (h : t.edge = .advanceDue) :
    t.advance = { t with counter := t.counter + 1, count := 0, edge := .taken } := by
  simp [TimeBase.advance, h]

theorem State.advanceTime_advanceTime (s : State) : s.advanceTime.advanceTime = s.advanceTime :=
  State.advanceTime_of_ne s.timeBase.advance_edge

/-- Where nothing is left of an earlier edge, nothing is finished. -/
theorem State.finishEdge_of_finished {s : State} (h : s.EdgeFinished) : s.finishEdge = s := by
  obtain ⟨hdue, hedge, hv⟩ := h
  have hc : s.completeValidation = s := by
    cases hval : s.validation with
    | none => exact State.completeValidation_of_none hval
    | some v => exact s.completeValidation_of_running v hval (hv v hval)
  have ha : s.advanceTime = s := State.advanceTime_of_ne (by simp [hedge])
  simp [State.finishEdge, hc, ha, hdue]

/-- One edge of the pacer where no strobe is left (R111). -/
theorem Serializer.pace_eq {z : Serializer} (h : z.strobeDue = false) : z.pace = { z with
    oclk := .high
    accumulator := if z.ratioD.toNat ≤ z.accumulator + z.ratioN.toNat
      then z.accumulator + z.ratioN.toNat - z.ratioD.toNat else z.accumulator + z.ratioN.toNat
    strobeDue := decide (z.ratioD.toNat ≤ z.accumulator + z.ratioN.toNat) } := by
  unfold Serializer.pace
  by_cases hd : z.ratioD.toNat ≤ z.accumulator + z.ratioN.toNat <;> simp [hd, h]

/-- The count of an edge that the time base takes at once (R118). -/
theorem TimeBase.takeEdge_advanceDue {t : TimeBase} (h : t.edge = .taken) :
    { t with edge := .advanceDue }.takeEdge =
      if t.count + 1 < t.prescaler then { t with count := t.count + 1 } else { t with edge := .advanceDue } := by
  rw [TimeBase.takeEdge_eq (by simp)]
  split
  · rw [← h]
  · rfl

/-- An edge with nothing left of an earlier one, in MASTER mode (R111, R118, R121). -/
theorem State.refclkEdge_master {s : State} (order : EdgeOrder) (h : s.EdgeFinished) (hm : s.pins.linkMode = .master) :
    s.refclkEdge order = { s with
      serial := s.serial.pace
      timeBase := if order = .strobeFirst ∧ s.serial.ratioD.toNat ≤ s.serial.accumulator + s.serial.ratioN.toNat
        then { s.timeBase with edge := .afterStrobe }
        else if s.timeBase.count + 1 < s.timeBase.prescaler then { s.timeBase with count := s.timeBase.count + 1 }
        else { s.timeBase with edge := .advanceDue }
      validation := s.validation.map fun v =>
        { v with progress := s.nextProgress (s.bank v.bank) v.progress } } := by
  obtain ⟨hdue, hedge, -⟩ := h
  have hstrobe : s.serial.pace.strobeDue = true ↔
      s.serial.ratioD.toNat ≤ s.serial.accumulator + s.serial.ratioN.toNat := by
    rw [Serializer.pace_eq hdue, decide_eq_true_iff]
  simp only [State.refclkEdge, s.validatePeriod_eq, hm, TimeBase.takeEdge_advanceDue hedge, hstrobe]

/-- The same in FOLLOWER mode, where REFCLK makes no strobe (R114, R118). -/
theorem State.refclkEdge_follower {s : State} (order : EdgeOrder) (h : s.EdgeFinished)
    (hm : s.pins.linkMode = .follower) :
    s.refclkEdge order = { s with
      timeBase := if s.timeBase.count + 1 < s.timeBase.prescaler then { s.timeBase with count := s.timeBase.count + 1 }
        else { s.timeBase with edge := .advanceDue }
      validation := s.validation.map fun v =>
        { v with progress := s.nextProgress (s.bank v.bank) v.progress } } := by
  obtain ⟨hdue, hedge, -⟩ := h
  have hnone : ¬ (order = .strobeFirst ∧ s.serial.strobeDue = true) := by simp [hdue]
  simp only [State.refclkEdge, s.validatePeriod_eq, hm, TimeBase.takeEdge_advanceDue hedge, if_neg hnone]

/-- Settles O24: nothing is left to finish, so the edge is the pacer's, the prescaler's and the validation's part. -/
theorem clockEdgesPaceAndCount : Obligations.ClockEdgesPaceAndCount := by
  refine ⟨fun order s h => by simp [exec, execRefclkRisingEdge, h], ?_,
    fun t ht => TimeBase.takeEdge_eq ht, fun s => ⟨fun h => ?_, fun h => ?_⟩⟩
  · intro order s hr hfin
    have hexec : exec (.refclkRisingEdge order) s = .next (s.refclkEdge order) := by
      simp [exec, execRefclkRisingEdge, hr, State.finishEdge_of_finished hfin]
    cases hm : s.pins.linkMode with
    | master =>
      rw [hexec, State.refclkEdge_master order hfin hm, Serializer.pace_eq hfin.1]
      simp only [if_true, true_and]
    | follower =>
      rw [hexec, State.refclkEdge_follower order hfin hm]
      simp only [reduceCtorEq, if_false, false_and, and_false]
  · exact congrArg (fun t => Host.Outcome.next { s with timeBase := t }) (TimeBase.advance_eq h)
  · exact congrArg Host.Outcome.next (State.advanceTime_of_ne h)

/-! ### What a REFCLK edge finishes first (log 5) -/

theorem State.completeValidation_serial (s : State) : s.completeValidation.serial = s.serial := by
  unfold State.completeValidation
  split
  · split <;> simp [State.completeFound, State.completePassed]
  · rfl

theorem State.completeValidation_timeBase (s : State) : s.completeValidation.timeBase = s.timeBase := by
  unfold State.completeValidation
  split
  · split <;> simp [State.completeFound, State.completePassed]
  · rfl

theorem State.completeValidation_pins (s : State) : s.completeValidation.pins = s.pins := by
  unfold State.completeValidation
  split
  · split <;> simp [State.completeFound, State.completePassed]
  · rfl

/-- After the completion no ended validation is left. -/
theorem State.completeValidation_running (s : State) :
    ∀ v ∈ s.completeValidation.validation, v.progress.ended = false := by
  unfold State.completeValidation
  split
  · rename_i v hv
    split
    · simp [State.completeFound]
    · simp [State.completePassed]
    · rename_i hp
      simp [hv, hp, Progress.ended]
    · rename_i hp
      simp [hv, hp, Progress.ended]
  · simp [*]

/-- A strobe leaves no strobe due, and the count of its edge taken or its advance due (R111, R121). -/
theorem State.strobe_strobeDue (s : State) : s.strobe.serial.strobeDue = false := by
  unfold State.strobe
  split
  · split <;> rfl
  · rfl

theorem State.strobe_edge (s : State) : s.strobe.timeBase.edge ≠ .afterStrobe := by
  unfold State.strobe
  split
  · split <;> exact TimeBase.takeEdge_edge _
  · exact TimeBase.takeEdge_edge _

theorem EdgeWork.eq_taken {e : EdgeWork} (h : e ≠ .advanceDue) (h' : e ≠ .afterStrobe) : e = .taken := by
  cases e <;> simp_all

theorem TimeBase.advance_edge_ne_afterStrobe {t : TimeBase} (h : t.edge ≠ .afterStrobe) :
    t.advance.edge ≠ .afterStrobe := by
  unfold TimeBase.advance
  split <;> simp_all

/-- What is left of earlier edges is finished. -/
theorem State.finishEdge_edgeFinished {s : State} (h : s.TimeInv) : s.finishEdge.EdgeFinished := by
  obtain ⟨-, -, -, -, hafter⟩ := h
  let u := s.completeValidation.advanceTime
  have hserial : u.serial = s.serial := s.completeValidation_serial
  have hrun : ∀ v ∈ u.validation, v.progress.ended = false := s.completeValidation_running
  have hfin : s.finishEdge = if u.serial.strobeDue then u.strobe.advanceTime else u.advanceTime := by
    simp only [State.finishEdge]
    split <;> rfl
  rw [hfin]
  split
  · exact ⟨u.strobe_strobeDue, EdgeWork.eq_taken (TimeBase.advance_edge _)
      (TimeBase.advance_edge_ne_afterStrobe u.strobe_edge), by
        change ∀ v ∈ u.strobe.validation, _
        rw [u.strobe_validation]
        exact hrun⟩
  · rename_i hdue
    have hno : s.timeBase.edge ≠ .afterStrobe := fun he => hdue (hserial ▸ hafter he)
    have hu : u.timeBase.edge ≠ .afterStrobe := by
      change s.completeValidation.timeBase.advance.edge ≠ _
      rw [s.completeValidation_timeBase]
      exact TimeBase.advance_edge_ne_afterStrobe hno
    exact ⟨Bool.eq_false_iff.2 hdue, EdgeWork.eq_taken (TimeBase.advance_edge _)
      (TimeBase.advance_edge_ne_afterStrobe hu), hrun⟩

/-- Settles O25: what is finished stays finished, and each piece is what its own command does. -/
theorem clockEdgeFinishesEarlierEdges : Obligations.ClockEdgeFinishesEarlierEdges := by
  intro s hr htime
  have hfin := State.finishEdge_edgeFinished htime
  have hpins : s.completeValidation.advanceTime.pins = s.pins := s.completeValidation_pins
  refine ⟨hfin, fun order => ?_, ?_, ?_⟩
  · have hr' : s.finishEdge.pins.resetn = .high := s.finishEdge_moves.resetn.trans hr
    simp [exec, execRefclkRisingEdge, hr, hr', State.finishEdge_of_finished hfin]
  · rintro t₁ t₂ t₃ t₄ hm ⟨⟩ ⟨⟩ h₃ ⟨⟩
    have hoccurs : s.completeValidation.advanceTime.strobeOccurs
        = s.completeValidation.advanceTime.serial.strobeDue := by
      simp [State.strobeOccurs, hpins, hr, hm]
    simp only [exec, execBitStrobe, hoccurs] at h₃
    unfold State.finishEdge
    dsimp only
    split at h₃ <;> cases h₃ <;> simp [*]
  · rintro t₁ t₂ hm hp ⟨⟩ ⟨⟩
    have hdue : s.completeValidation.advanceTime.serial.strobeDue = false :=
      (congrArg Serializer.strobeDue s.completeValidation_serial).trans ((s.pacerInv_iff.1 hp).2 hm).2
    simp [State.finishEdge, hdue, State.advanceTime_advanceTime]

end Sys2Proof.Machine

/-! ## Validation: its end in time, the whole-format tests and the place examinations, and what its completion hands
over (R16 to R24, R58, R59). -/

namespace Sys2Proof.Machine

/-! ### VALIDATION_COMPLETION (R58, R59) -/

/-- Reading after an update, at a number whose unlisted content the update leaves. -/
theorem Table.get_update_of_get {α : Type} {d : α} {f : Nat → α → α} {t : Table α} (i : Nat)
    (hf : Table.get d t i = d → f i d = d) : Table.get d (Table.update f t) i = f i (Table.get d t i) := by
  induction t with
  | nil => simp [Table.update, Table.get, hf rfl]
  | cons e t ih =>
    obtain ⟨k, v⟩ := e
    by_cases h : k = i
    · subst h; simp [Table.update, Table.get]
    · simp only [Table.get, h, if_false] at hf
      simpa [Table.update, Table.get, h] using ih hf

/-- A channel that is referenced is defined, so its record is not blank. -/
theorem State.channel_ne_blank {s : State} {c : Nat} (h : s.isUndefined c = false) : s.channel c ≠ .blank := by
  intro e
  simp [State.isUndefined, e, Channel.blank] at h

/-- Settles O27, by the two ends of a validation; a referenced channel is defined, so the pin flags reach it. -/
theorem validationCompletionHandsOver : Obligations.ValidationCompletionHandsOver := by
  refine ⟨fun reason => by cases reason <;> rfl, fun s x tag => ⟨fun f hq hv => ?_, fun refs hpool hpin hv => ?_,
    fun v hv hrun => ?_, fun hv => ?_⟩⟩
  · have hreplies : ∀ record, (s.replies.release tag Command.switch.code).append record
        = { s.replies with records := s.replies.records ++ [record], reservations := [] } := by
      simp [ReplyQueue.release, ReplyQueue.append, hq.1, State.owed, hv]
    have hc : s.completeValidation = s.completeFound ⟨x, tag, .found f⟩ f := by
      simp [State.completeValidation, hv]
    have hexec : exec .validationCompletion s = .next s.completeValidation := rfl
    rw [hexec, hc]
    simp only [State.completeFound, State.convert, State.count, DeviceCounters.add, State.setBankState_replies,
      hreplies, State.setBankState_health]
    rfl
  · have hdefined : ∀ c, refs.contains c = true → s.channel c ≠ .blank := by
      intro c hcr
      refine State.channel_ne_blank (hpin.2.1 c ?_)
      simp only [State.validationRefs, hv, List.mem_append]
      exact .inr (by simpa using hcr)
    have hc : s.completeValidation = s.completePassed ⟨x, tag, .passed refs⟩ refs := by
      simp [State.completeValidation, hv]
    have hexec : exec .validationCompletion s = .next s.completeValidation := rfl
    refine ⟨_, Table.wf_update (f := fun c ch => { ch with
      activeRef := ch.activeRef, pendingRef := ch.pendingRef || refs.contains c }) hpool.1 fun e he => ?_,
      fun c => ?_, ?_⟩
    · exact fun hblank => (hpool.2.1 e he).2.1 (congrArg Channel.keeping hblank)
    · refine Table.get_update_of_get c fun hblank => ?_
      have hcr : refs.contains c = false := Bool.eq_false_iff.2 fun h => hdefined c h hblank
      simp only [hcr]
      rfl
    · rw [hexec, hc]
      simp only [State.completePassed, State.setPins, State.setBankState_channels, State.setBankState_engine]
  · exact congrArg Host.Outcome.next (s.completeValidation_of_running v hv hrun)
  · exact congrArg Host.Outcome.next (State.completeValidation_of_none hv)

/-! ### Validation ends in time (R16) -/

/-- `k` periods, whatever the rest of the part holds in each, leave at most the periods left less `k`. -/
theorem foldl_nextProgress_periodsLeft (b : Bank) (hb : b.geometryOk = true) (periods : List State) (p : Progress) :
    (periods.foldl (fun (p : Progress) (s : State) => s.nextProgress b p) p).periodsLeft b
      ≤ p.periodsLeft b - periods.length := by
  induction periods generalizing p with
  | nil => simp
  | cons s periods ih =>
    refine (ih (s.nextProgress b p)).trans ?_
    rw [List.length_cons]
    cases he : p.ended with
    | true => rw [s.nextProgress_of_ended b p he]; have := (p.periodsLeft_eq_zero b).2 he; omega
    | false => have := s.nextProgress_periodsLeft b p hb he; omega

theorem periodsLeft_start {b : Bank} {g : Geometry} (hg : b.geometry = some g) :
    (Progress.test .geometry).periodsLeft b = 4 + g.depth * g.length := by
  simp [Progress.periodsLeft, hg]

theorem Progress.periodsLeft_sameContents {b b' : Bank} (h : b.SameContents b') (p : Progress) :
    p.periodsLeft b' = p.periodsLeft b := by
  simp only [Progress.periodsLeft, h.geometry]

/-- A part in validation takes no record (R149, R150). -/
theorem State.takeable_of_validation {s : State} {v : Validation} (h : s.validation = some v) : s.takeable = none := by
  simp [State.takeable, h]

theorem State.fetch_validation (s : State) : s.fetch.endStrobe.validation = s.validation := by
  rw [s.fetch_eq, State.handedOver_validation, (State.content_sameFormats _ _ _).validation]
  unfold State.atWord
  split
  · obtain ⟨_, _, _, _, _, _, _, _, _, _, _, _, _, _, _, _, _, _, e⟩ := s.frameStart_frame
    rw [e]
  · rfl

/-- A validation that has not ended stands still but for a pin reset and the REFCLK edges (R16). -/
theorem exec_validation_of_running {i : Instr} {s t : State} {v : Validation}
    (hassert : ∀ lmode, i ≠ .pinResetAssert lmode) (hedge : ∀ order, i ≠ .refclkRisingEdge order)
    (hv : s.validation = some v) (hrun : v.progress.ended = false) (h : exec i s = .next t) :
    t.validation = some v := by
  cases i with
  | pinResetAssert lmode => exact absurd rfl (hassert lmode)
  | refclkRisingEdge order => exact absurd rfl (hedge order)
  | pinResetRelease lmode adr1 adr0 =>
    simp only [exec, execPinResetRelease] at h
    split at h <;> cases h
    · simpa [State.releaseReset, State.ready] using hv
    · exact hv
  | messageCompletion =>
    simp only [exec, execMessageCompletion] at h
    split at h <;> cases h
    · rw [(State.completeMessage_sameFormats _).validation]
      exact hv
    · exact hv
  | ifrmFall =>
    simp only [exec, execIfrmFall] at h
    split at h
    · cases h
      exact hv
    · split at h <;> cases h <;> exact hv
  | iclkRisingEdge idat =>
    simp only [exec, execIclkRisingEdge] at h
    split at h <;> cases h <;> exact hv
  | wordFetch =>
    simp only [exec, execWordFetch] at h
    split at h <;> cases h
    · exact s.fetch_validation.trans hv
    · exact hv
  | bitStrobe =>
    simp only [exec, execBitStrobe] at h
    split at h <;> cases h
    · exact s.strobe_validation.trans hv
    · exact hv
  | timeCounterAdvance =>
    cases h
    exact hv
  | validationCompletion =>
    cases h
    rw [s.completeValidation_of_running v hv hrun]
    exact hv
  | _ =>
    cases (exec_of_not_takeable rfl (State.takeable_of_validation hv)).symm.trans h
    exact hv

/-- Settles O28: every period lowers what is left, and no other command but a pin reset reaches it. -/
theorem validationEndsInTime : Obligations.ValidationEndsInTime := by
  refine ⟨fun s b hb => by simp [State.nextProgress, wholeFinding, hb, Progress.ended],
    fun periods b g hg hb hlen => ?_,
    fun b p => p.periodsLeft_eq_zero b, fun b g hg => periodsLeft_start hg, fun order s v hr hv hrun hgeo => ?_,
    fun i s t v => exec_validation_of_running⟩
  · rw [← Progress.periodsLeft_eq_zero _ b]
    have hle := foldl_nextProgress_periodsLeft b hb periods (.test .geometry)
    rw [periodsLeft_start hg] at hle
    omega
  · obtain ⟨hval, hbank⟩ := s.finishEdge_of_running v hv hrun
    have hc : (s.bank v.bank).SameContents (s.finishEdge.bank v.bank) := hbank v.bank
    refine ⟨s.finishEdge.refclkEdge order, s.finishEdge.nextProgress (s.finishEdge.bank v.bank) v.progress,
      by simp [exec, execRefclkRisingEdge, hr], by simp [State.refclkEdge_validation, hval], ?_, ?_⟩
    · rw [State.refclkEdge_bank, hc.geometry]
    · rw [State.refclkEdge_bank, ← Progress.periodsLeft_sameContents hc v.progress]
      exact s.finishEdge.nextProgress_periodsLeft _ _ (hc.geometryOk.trans hgeo) hrun

/-! ### The whole-format tests (R17) -/

theorem Table.le_of_mem {α : Type} [DecidableEq α] {d : α} {lo : Nat} {t : Table α}
    (hw : Table.wfFrom d lo t = true) {e : Nat × α} (he : e ∈ t) : lo ≤ e.1 := by
  induction t generalizing lo with
  | nil => cases he
  | cons e' t ih =>
    obtain ⟨k, v⟩ := e'
    obtain ⟨hk, -, ht⟩ := Table.wfFrom_cons_iff.1 hw
    rcases List.mem_cons.1 he with rfl | he
    · exact hk
    · have := ih ht he
      omega

/-- The first entry of a canonical table with a property is the one of the least number. -/
theorem Table.find?_least {α : Type} [DecidableEq α] {d : α} {lo : Nat} {t : Table α}
    (hw : Table.wfFrom d lo t = true) {q : Nat × α → Bool} {e e' : Nat × α} (h : t.find? q = some e) (he' : e' ∈ t)
    (hq : q e' = true) : e.1 ≤ e'.1 := by
  induction t generalizing lo with
  | nil => cases he'
  | cons a t ih =>
    obtain ⟨k, v⟩ := a
    obtain ⟨-, -, ht⟩ := Table.wfFrom_cons_iff.1 hw
    rw [List.find?_cons] at h
    split at h
    · cases h
      rcases List.mem_cons.1 he' with rfl | he'
      · exact le_refl _
      · have := Table.le_of_mem ht he'
        omega
    · rename_i hqa
      rcases List.mem_cons.1 he' with rfl | he'
      · rw [hq] at hqa
        cases hqa
      · exact ih ht h he'

/-- Place `p` is a REPLY place below F. -/
def Bank.ReplyAt (b : Bank) (g : Geometry) (p : Nat) : Prop := p < g.length ∧ Table.get .empty b.template p = .reply

/-- The lowest REPLY place below F, where there is one, is what the tests NO_REPLY and NARROW_REPLY find. -/
theorem Bank.firstReply_spec {b : Bank} {g : Geometry} (hw : Table.wf .empty b.template = true) :
    match b.firstReply g with
    | none => ∀ p, ¬ b.ReplyAt g p
    | some p => b.ReplyAt g p ∧ ∀ q, b.ReplyAt g q → p ≤ q := by
  have hmem : ∀ p, b.ReplyAt g p → (p, Slot.reply) ∈ b.template := fun p hp => (Table.mem_iff hw).2 ⟨nofun, hp.2⟩
  unfold Bank.firstReply
  cases hf : b.template.find? fun e => e.1 < g.length && e.2 == .reply with
  | none =>
    intro p hp
    have := List.find?_eq_none.1 hf _ (hmem p hp)
    simp [hp.1] at this
  | some e =>
    obtain ⟨k, v⟩ := e
    have hkv := List.find?_some hf
    simp only [Bool.and_eq_true, decide_eq_true_eq, beq_iff_eq] at hkv
    obtain ⟨hk, rfl⟩ := hkv
    refine ⟨⟨hk, ((Table.mem_iff hw).1 (List.mem_of_find?_eq_some hf)).2⟩, fun q hq => ?_⟩
    exact Table.find?_least hw hf (hmem q hq) (by simp [hq.1])

theorem Bank.firstReply_of_least {b : Bank} {g : Geometry} (hw : Table.wf .empty b.template = true) {p : Nat}
    (hp : b.ReplyAt g p) (hleast : ∀ q < p, ¬ b.ReplyAt g q) : b.firstReply g = some p := by
  have hspec := b.firstReply_spec (g := g) hw
  cases hf : b.firstReply g with
  | none =>
    rw [hf] at hspec
    exact absurd hp (hspec p)
  | some k =>
    rw [hf] at hspec
    obtain ⟨hk, hkq⟩ := hspec
    have h1 := hkq p hp
    have h2 : ¬ k < p := fun h => hleast k h hk
    rw [show k = p by omega]

theorem Bank.firstReply_isNone {b : Bank} {g : Geometry} (hw : Table.wf .empty b.template = true) :
    (b.firstReply g).isNone = true ↔ ∀ p, ¬ b.ReplyAt g p := by
  have hspec := b.firstReply_spec (g := g) hw
  cases hf : b.firstReply g with
  | none =>
    rw [hf] at hspec
    simpa using hspec
  | some k =>
    rw [hf] at hspec
    simpa using ⟨k, hspec.1⟩

theorem State.nextProgress_test_of_found {s : State} {b : Bank} {t : WholeTest} {f : Finding}
    (h : wholeFinding s.pins.linkMode b t = some f) : s.nextProgress b (.test t) = .found f := by
  simp [State.nextProgress, h]

/-- Settles O29, test by test. -/
theorem wholeFormatTestsInOrder : Obligations.WholeFormatTestsInOrder := by
  intro s b
  refine ⟨fun hb => State.nextProgress_test_of_found (by simp [wholeFinding, hb]), fun g hg hw => ?_⟩
  have hzero : g.ratioN.toNat = 0 ↔ g.ratioN = 0 := by
    rw [← BitVec.toNat_inj]; rfl
  have hreply := b.firstReply_isNone (g := g) hw
  refine ⟨by simp [State.nextProgress, wholeFinding, hg], fun hr => ?_, fun hr => ?_, fun h => ?_, fun h => ?_,
    fun p hp hleast hwidth => ?_, fun hwidth => ?_⟩
  · rw [hzero] at hr
    exact State.nextProgress_test_of_found (by simp only [wholeFinding, hg]; rw [if_pos hr])
  · rw [hzero] at hr
    simp only [State.nextProgress, wholeFinding, hg]
    rw [if_neg hr]
  · exact State.nextProgress_test_of_found (by simp only [wholeFinding, hg]; rw [if_pos (hreply.2 h)])
  · obtain ⟨p, hp⟩ := h
    simp only [State.nextProgress, wholeFinding, hg]
    rw [if_neg fun hn => hreply.1 hn p hp]
  · have hfirst := Bank.firstReply_of_least hw hp hleast
    exact State.nextProgress_test_of_found (by simp [wholeFinding, hg, hfirst, hwidth])
  · have hnone : wholeFinding s.pins.linkMode b .narrow = none := by
      simp only [wholeFinding, hg]
      split
      · rw [if_neg (by omega)]
      · rfl
    simp [State.nextProgress, hnone]

/-! ### Place examinations (R18 to R23) -/

theorem mem_insertChannel (c k : Nat) (ks : List Nat) : k ∈ insertChannel c ks ↔ k = c ∨ k ∈ ks := by
  induction ks with
  | nil => simp [insertChannel]
  | cons a ks ih =>
    unfold insertChannel
    split
    · simp
    · split
      · subst_vars; simp
      · simp only [List.mem_cons, ih]
        tauto

theorem State.isUndefined_iff (s : State) (c : Nat) : s.isUndefined c = true ↔ (s.channel c).keeping = .undefined := by
  simp [State.isUndefined]

theorem State.isQueued_iff (s : State) (c : Nat) : s.isQueued c = true ↔ ∃ q, (s.channel c).keeping = .queued q := by
  unfold State.isQueued
  split <;> simp [*]

/-- A place that is neither EMPTY nor ROTATE is examined by its own descriptor. -/
theorem State.examinePlace_of_plain {s : State} {b : Bank} {g : Geometry} {f p : Nat} {seen : Seen}
    (he : Table.get .empty b.template p ≠ .empty) (hr : ∀ l, Table.get .empty b.template p ≠ .rotate l) :
    s.examinePlace b g f p seen = s.examineSlot b g seen (Table.get .empty b.template p) := by
  unfold State.examinePlace
  split
  · exact absurd ‹_› he
  · exact absurd ‹_› (hr _)
  · rfl

/-- A ROTATE place whose list has a length that divides C is examined by the entry that the frame draws. -/
theorem State.examinePlace_of_rotate {s : State} {b : Bank} {g : Geometry} {f p l : Nat} {seen : Seen} {entry : Slot}
    (hd : Table.get .empty b.template p = .rotate l) (hdvd : (Table.get [] b.rotation l).length ∣ g.depth)
    (hentry : (Table.get [] b.rotation l)[f % (Table.get [] b.rotation l).length]? = some entry) :
    s.examinePlace b g f p seen =
      if entry = .empty then .error .rotationEmpty else s.examineSlot b g seen entry := by
  have hpos : (Table.get [] b.rotation l).length ≠ 0 := by
    intro h
    simp [List.length_eq_zero_iff.1 h] at hentry
  simp only [State.examinePlace, hd, List.getD_eq_getElem?_getD, hentry, Option.getD_some]
  rw [if_neg (by simp [hpos, Nat.mod_eq_zero_of_dvd hdvd])]
  split
  · rfl
  · rw [if_neg ‹_›]

/-- A failed check ends the validation with its reason, frame and place (R18). -/
theorem State.nextProgress_of_error {s : State} {b : Bank} {g : Geometry} {f p : Nat} {seen : Seen} {reason : Reason}
    (hg : b.geometry = some g) (h : s.examinePlace b g f p seen = .error reason) :
    s.nextProgress b (.examine f p seen.captured seen.refs) = .found ⟨reason, f, p⟩ := by
  simp [State.nextProgress, hg, h]

/-- A place that passes is followed by the next place, the next frame, or the end (R18). -/
theorem State.nextProgress_of_ok {s : State} {b : Bank} {g : Geometry} {f p : Nat} {seen seen' : Seen}
    (hg : b.geometry = some g) (h : s.examinePlace b g f p seen = .ok seen') :
    s.nextProgress b (.examine f p seen.captured seen.refs) =
      if p + 1 < g.length then .examine f (p + 1) seen'.captured seen'.refs
      else if f + 1 < g.depth then .examine (f + 1) 0 [] seen'.refs
      else .passed seen'.refs := by
  simp [State.nextProgress, hg, h]

/-- Settles O30, by the kinds of place and of descriptor. -/
theorem placesAreExaminedInOrder : Obligations.PlacesAreExaminedInOrder := by
  intro s b g f p seen place at'
  refine ⟨fun hg => ⟨fun reason h => ?_, fun seen' h => ?_⟩,
    ?_, fun v => ?_, fun shift w => ?_, fun c m signed shift w => ?_, ⟨rfl, rfl, rfl, rfl, rfl⟩, mem_insertChannel⟩
  · exact State.nextProgress_of_error hg h
  · have hnext := State.nextProgress_of_ok hg (show s.examinePlace b g f p seen = .ok seen' from h)
    refine ⟨fun h1 => ?_, fun h1 h2 => ?_, fun h1 h2 => ?_⟩ <;> refine hnext.trans ?_
    · rw [if_pos h1]
    · rw [if_neg (not_lt.2 h1), if_pos h2]
    · rw [if_neg (not_lt.2 h1), if_neg (not_lt.2 h2)]
  · rintro d rfl
    refine ⟨fun he => ?_, fun he hr => State.examinePlace_of_plain he hr, ?_⟩
    · simp [place, State.examinePlace, he]
    · rintro l list hd rfl
      refine ⟨fun hbad => ?_, fun hdvd entry hentry => ?_⟩
      · simp only [place, State.examinePlace, hd]
        rw [if_pos]
        exact hbad.imp List.length_eq_zero_iff.2 fun h hmod => h (Nat.dvd_of_mod_eq_zero hmod)
      · have hplace := State.examinePlace_of_rotate (s := s) (seen := seen) hd hdvd hentry
        exact ⟨fun he => by simp only [place, hplace, he, if_true],
          fun he => by simp only [place, hplace, if_neg he, at']⟩
  · by_cases h : v.toNat < 2 ^ g.width
    · simp only [at', State.examineSlot, if_pos h, if_neg (not_le.2 h)]
    · simp only [at', State.examineSlot, if_neg h, if_pos (not_lt.1 h)]
  · by_cases h : w ≤ g.width
    · simp only [at', State.examineSlot, if_pos h, if_neg (not_lt.2 h)]
    · simp only [at', State.examineSlot, if_neg h, if_pos (not_le.1 h)]
  · simp only [at', State.examineSlot, State.isUndefined_iff]
    cases m <;> simp [Seen.reference]

/-! ### PACKED runs (R21, R22, R23) -/

/-- Every HELD pick of the run is of a channel captured before: in the frame, or by a lower pick of the run (R23). -/
def HeldAfterCapture (captured : List Nat) (run : List Pick) : Prop :=
  ∀ (i c bit : Nat), run[i]? = some (Pick.channelBit c bit .held) →
    c ∈ captured ∨ ∃ j, j < i ∧ ∃ bit' : Nat, run[j]? = some (Pick.channelBit c bit' .capture)

theorem heldAfterCapture_cons (captured : List Nat) (p : Pick) (ps : List Pick) :
    HeldAfterCapture captured (p :: ps) ↔
      (∀ c bit, p = .channelBit c bit .held → c ∈ captured)
      ∧ ∀ (i c bit : Nat), ps[i]? = some (Pick.channelBit c bit .held) →
        (c ∈ captured ∨ ∃ bit', p = .channelBit c bit' .capture)
          ∨ ∃ j, j < i ∧ ∃ bit' : Nat, ps[j]? = some (Pick.channelBit c bit' .capture) := by
  constructor
  · refine fun h => ⟨fun c bit hp => ?_, fun i c bit hi => ?_⟩
    · rcases h 0 c bit (by simp [hp]) with hc | ⟨j, hj, -⟩
      · exact hc
      · omega
    · rcases h (i + 1) c bit (by simpa using hi) with hc | ⟨j, hj, bit', hj'⟩
      · exact .inl (.inl hc)
      · cases j with
        | zero => exact .inl (.inr ⟨bit', by simpa using hj'⟩)
        | succ j => exact .inr ⟨j, by omega, bit', by simpa using hj'⟩
  · rintro ⟨h0, hs⟩ i c bit hi
    cases i with
    | zero => exact .inl (h0 c bit (by simpa using hi))
    | succ i =>
      rcases hs i c bit (by simpa using hi) with (hc | ⟨bit', hp⟩) | ⟨j, hj, bit', hj'⟩
      · exact .inl hc
      · exact .inr ⟨0, by omega, bit', by simp [hp]⟩
      · exact .inr ⟨j + 1, by omega, bit', by simpa using hj'⟩

theorem heldAfterCapture_cons_capture (captured : List Nat) (c bit : Nat) (ps : List Pick) :
    HeldAfterCapture captured (.channelBit c bit .capture :: ps) ↔ HeldAfterCapture (insertChannel c captured) ps := by
  rw [heldAfterCapture_cons]
  simp [HeldAfterCapture, mem_insertChannel, or_comm, eq_comm]

theorem heldAfterCapture_cons_held (captured : List Nat) (c bit : Nat) (ps : List Pick) :
    HeldAfterCapture captured (.channelBit c bit .held :: ps) ↔ c ∈ captured ∧ HeldAfterCapture captured ps := by
  rw [heldAfterCapture_cons]
  simp [HeldAfterCapture]

theorem heldAfterCapture_cons_constant (captured : List Nat) {p : Pick} (hp : ∀ c bit m, p ≠ .channelBit c bit m)
    (ps : List Pick) : HeldAfterCapture captured (p :: ps) ↔ HeldAfterCapture captured ps := by
  rw [heldAfterCapture_cons]
  simp [HeldAfterCapture, hp]

/-- What a run that passes adds: its captures to the captured set, its channels to the references (R23). -/
def Seen.Extends (seen seen' : Seen) (run : List Pick) : Prop :=
  (∀ c, c ∈ seen'.captured ↔ c ∈ seen.captured ∨ ∃ bit, Pick.channelBit c bit .capture ∈ run)
  ∧ ∀ c, c ∈ seen'.refs ↔ c ∈ seen.refs ∨ ∃ bit m, Pick.channelBit c bit m ∈ run

theorem Seen.picks_of_heldAfterCapture (run : List Pick) (seen : Seen) (h : HeldAfterCapture seen.captured run) :
    ∃ seen', seen.picks run = .ok seen' ∧ seen.Extends seen' run := by
  induction run generalizing seen with
  | nil => exact ⟨seen, rfl, by simp [Seen.Extends]⟩
  | cons p ps ih =>
    rcases p with _ | ⟨c, bit, _ | _⟩ | _ | _
    case channelBit.capture =>
      rw [heldAfterCapture_cons_capture] at h
      obtain ⟨seen', e, hcap, hrefs⟩ := ih ⟨insertChannel c seen.captured, insertChannel c seen.refs⟩ h
      refine ⟨seen', by simpa [Seen.picks, Seen.reference] using e, fun k => ?_, fun k => ?_⟩
      · by_cases hk : k = c <;> simp [hcap, mem_insertChannel, hk]
      · by_cases hk : k = c <;> simp [hrefs, mem_insertChannel, hk, exists_or]
    case channelBit.held =>
      rw [heldAfterCapture_cons_held] at h
      obtain ⟨seen', e, hcap, hrefs⟩ := ih ⟨seen.captured, insertChannel c seen.refs⟩ h.2
      refine ⟨seen', by simpa [Seen.picks, Seen.reference, h.1] using e, fun k => ?_, fun k => ?_⟩
      · simp only [hcap, List.mem_cons, Pick.channelBit.injEq, reduceCtorEq, and_false, false_or]
      · by_cases hk : k = c <;> simp [hrefs, mem_insertChannel, hk, exists_or]
    all_goals
      obtain ⟨seen', e, hcap, hrefs⟩ := ih seen
        ((heldAfterCapture_cons_constant seen.captured (fun _ _ _ e => by cases e) ps).1 h)
      exact ⟨seen', e, fun k => by simp [hcap], fun k => by simp [hrefs]⟩

theorem Seen.picks_of_not_heldAfterCapture (run : List Pick) (seen : Seen)
    (h : ¬ HeldAfterCapture seen.captured run) : seen.picks run = .error .heldBeforeCapture := by
  induction run generalizing seen with
  | nil => exact absurd (fun i c bit hi => by simp at hi) h
  | cons p ps ih =>
    rcases p with _ | ⟨c, bit, _ | _⟩ | _ | _
    case channelBit.capture =>
      rw [heldAfterCapture_cons_capture] at h
      simpa [Seen.picks, Seen.reference] using ih ⟨insertChannel c seen.captured, insertChannel c seen.refs⟩ h
    case channelBit.held =>
      rw [heldAfterCapture_cons_held, not_and] at h
      by_cases hc : c ∈ seen.captured
      · simpa [Seen.picks, Seen.reference, hc] using ih ⟨seen.captured, insertChannel c seen.refs⟩ (h hc)
      · simp [Seen.picks, Seen.reference, hc]
    all_goals
      exact ih seen fun hs =>
        h ((heldAfterCapture_cons_constant seen.captured (fun _ _ _ e => by cases e) ps).2 hs)

theorem State.any_pickUndefined (s : State) (run : List Pick) : run.any s.pickUndefined = true ↔
    ∃ c bit m, Pick.channelBit c bit m ∈ run ∧ (s.channel c).keeping = .undefined := by
  rw [List.any_eq_true]
  constructor
  · rintro ⟨p, hp, h⟩
    rcases p with _ | ⟨c, bit, m⟩ | _ | _
    case channelBit => exact ⟨c, bit, m, hp, (s.isUndefined_iff c).1 h⟩
    all_goals cases h
  · rintro ⟨c, bit, m, hp, h⟩
    exact ⟨_, hp, (s.isUndefined_iff c).2 h⟩

theorem State.any_pickMismatch (s : State) (run : List Pick) : run.any s.pickMismatch = true ↔
    ∃ c bit q, Pick.channelBit c bit .capture ∈ run ∧ (s.channel c).keeping = .queued q := by
  rw [List.any_eq_true]
  constructor
  · rintro ⟨p, hp, h⟩
    rcases p with _ | ⟨c, bit, _ | _⟩ | _ | _
    case channelBit.capture =>
      obtain ⟨q, hq⟩ := (s.isQueued_iff c).1 h
      exact ⟨c, bit, q, hp, hq⟩
    all_goals cases h
  · rintro ⟨c, bit, q, hp, h⟩
    exact ⟨_, hp, (s.isQueued_iff c).2 ⟨q, h⟩⟩

/-- Settles O31: the checks stand in their order, and the last is decided by induction on the run. -/
theorem packedRunsAreExaminedInOrder : Obligations.PackedRunsAreExaminedInOrder := by
  intro s b g seen a n run result undefined mismatch heldAfter
  have hunset : run.any (· == .unset) = true ↔ Pick.unset ∈ run := by simp
  have hundef : run.any s.pickUndefined = true ↔ undefined := s.any_pickUndefined run
  have hmis : run.any s.pickMismatch = true ↔ mismatch := s.any_pickMismatch run
  have hresult : result = if g.width < n then .error .packTooWide
      else if run.any (· == .unset) = true then .error .pickUnset
      else if run.any s.pickUndefined = true then .error .channelUndefined
      else if run.any s.pickMismatch = true then .error .kindMismatch
      else seen.picks run := rfl
  have hpassed : n ≤ g.width → Pick.unset ∉ run → ¬ undefined → ¬ mismatch → result = seen.picks run := by
    intro h1 h2 h3 h4
    rw [hresult, if_neg (not_lt.2 h1), if_neg (hunset.not.2 h2), if_neg (hundef.not.2 h3), if_neg (hmis.not.2 h4)]
  refine ⟨fun h1 => ?_, fun h1 h2 => ?_, fun h1 h2 h3 => ?_, fun h1 h2 h3 h4 => ?_, fun h1 h2 h3 h4 h5 => ?_,
    fun h1 h2 h3 h4 h5 => ?_⟩
  · rw [hresult, if_pos h1]
  · rw [hresult, if_neg (not_lt.2 h1), if_pos (hunset.2 h2)]
  · rw [hresult, if_neg (not_lt.2 h1), if_neg (hunset.not.2 h2), if_pos (hundef.2 h3)]
  · rw [hresult, if_neg (not_lt.2 h1), if_neg (hunset.not.2 h2), if_neg (hundef.not.2 h3), if_pos (hmis.2 h4)]
  · exact (hpassed h1 h2 h3 h4).trans (Seen.picks_of_not_heldAfterCapture run seen h5)
  · obtain ⟨seen', e, hcap, hrefs⟩ := Seen.picks_of_heldAfterCapture run seen h5
    exact ⟨seen', (hpassed h1 h2 h3 h4).trans e, hcap, hrefs⟩

end Sys2Proof.Machine

/-! ## The word of a place: the descriptor it comes from, what each kind of word carries, and what a capture does to its
channel (R28 to R42, R52, R129). -/

namespace Sys2Proof.Machine

/-! ### The descriptor of a place (R28, R36, R52) -/

theorem State.slotAt_boot {s : State} (h : s.engine.inForce = .boot) (p : Nat) : s.slotAt p = bootSlot p := by
  simp [State.slotAt, h]

/-- A place that is no ROTATE holds what the bank's template holds. -/
theorem State.slotAt_of_plain {s : State} {x : BankId} {p : Nat} {d : Slot} (hx : s.engine.inForce = .bank x)
    (hd : Table.get .empty (s.bank x).template p = d) (hplain : ∀ l, d ≠ .rotate l) : s.slotAt p = d := by
  cases d with
  | rotate l => exact absurd rfl (hplain l)
  | _ => simp only [State.slotAt, hx, hd]

/-- A ROTATE place holds the entry of its list that the frame index draws (R36). -/
theorem State.slotAt_of_rotate {s : State} {x : BankId} {p l f : Nat} (hx : s.engine.inForce = .bank x)
    (hd : Table.get .empty (s.bank x).template p = .rotate l) (hf : s.engine.frameIndex = some f) :
    s.slotAt p = (Table.get [] (s.bank x).rotation l).getD
      (f % (Table.get [] (s.bank x).rotation l).length) .empty := by
  simp [State.slotAt, hx, hd, hf]

theorem bootSlot_reply {p : Nat} (h : 4 ≤ p) (h' : p ≤ 13) : bootSlot p = .reply := by
  simp [bootSlot, h', show p ≠ 0 by omega, show p ≠ 1 by omega, show p ≠ 2 by omega, show p ≠ 3 by omega]

/-- Settles O14, by the format in force; a list that is not empty has an entry at every index modulo its length. -/
theorem descriptorsComeFromTheFormatInForce : Obligations.DescriptorsComeFromTheFormatInForce := by
  intro s
  refine ⟨fun hb => ?_, fun x hx => ⟨fun g hg => ?_, fun p d hd hplain => s.slotAt_of_plain hx hd hplain, ?_⟩⟩
  · have hgeo : s.geometry = bootGeometry := by simp [State.geometry, State.geometryOf, hb]
    simp only [State.slotAt_boot hb]
    exact ⟨hgeo, rfl, rfl, rfl, rfl, fun p => bootSlot_reply, rfl, rfl⟩
  · simp [State.geometry, State.geometryOf, hx, hg]
  · rintro p l f list hd rfl hf hne
    have hlt := Nat.mod_lt f (List.length_pos_iff.2 hne)
    rw [State.slotAt_of_rotate hx hd hf, List.getD_eq_getElem _ _ hlt, List.getElem?_eq_getElem hlt]

/-! ### A word fetch and its content (R28, R30 to R35) -/

/-- A word fetch hands over the content of its place's descriptor. -/
theorem exec_wordFetch {s : State} (h : s.FetchesNow) {d : Slot} (hd : s.atWord.slotAt s.engine.place = d) :
    exec .wordFetch s = .next ((s.atWord.content s.engine.place d).1.handedOver
      (s.atWord.content s.engine.place d).2) := by
  have hexec : exec .wordFetch s = .next s.fetch.endStrobe := if_pos h
  rw [hexec, s.fetch_eq, hd]

theorem testBit_bitField (v shift width i : Nat) :
    (bitField v shift width).testBit i = (decide (i < width) && v.testBit (shift + i)) := by
  rw [bitField, Nat.testBit_mod_two_pow, Nat.testBit_div_two_pow, Nat.add_comm]

/-- A copied top bit is ones above the field: they are added below bit `w` alone. -/
theorem testBit_add_ones {field width w i : Nat} (hfield : field < 2 ^ width) (hw : width ≤ w) (hi : i < w) :
    (field + (2 ^ w - 2 ^ width)).testBit i = if i < width then field.testBit i else true := by
  obtain ⟨k, rfl⟩ := Nat.exists_eq_add_of_le hw
  have hones : field + (2 ^ (width + k) - 2 ^ width) = 2 ^ width * (2 ^ k - 1) + field := by
    rw [Nat.pow_add, Nat.mul_sub, Nat.mul_one, Nat.add_comm]
  rw [hones, Nat.testBit_two_pow_mul_add _ hfield]
  split
  · rfl
  · simp [Nat.testBit_two_pow_sub_one, show i - width < k by omega]

/-- The low `w` bits of a channel word: the field, and above it the field's top bit where the field is signed (R35). -/
theorem testBit_channelField (v : Sample) (signed : Bool) {shift width w i : Nat} (hw : width ≤ w) (hi : i < w) :
    (channelField v signed shift width w).testBit i
      = if i < width then v.getLsbD (shift + i) else signed && v.getLsbD (shift + width - 1) := by
  have hlt : bitField v.toNat shift width < 2 ^ width := Nat.mod_lt _ (Nat.two_pow_pos _)
  have hbit : (bitField v.toNat shift width).testBit i = (decide (i < width) && v.getLsbD (shift + i)) :=
    testBit_bitField _ _ _ _
  unfold channelField
  dsimp only
  split
  · rename_i htop
    simp only [Bool.and_eq_true, decide_eq_true_eq] at htop
    obtain ⟨⟨hsigned, -⟩, hv⟩ := htop
    rw [testBit_add_ones hlt hw hi, hbit, hsigned, hv]
    split <;> simp [*]
  · rename_i htop
    rw [hbit]
    split
    · simp [*]
    · have hwidth : width < w := by omega
      cases signed <;> simp_all

/-- Settles O15: such a word's content leaves the state as it is, and its value is read off the descriptor. -/
theorem wordsThatReadState : Obligations.WordsThatReadState := by
  intro s hs u d
  have hword : ∀ d', d = d' → exec .wordFetch s = .next ((u.content s.engine.place d').1.handedOver
      (u.content s.engine.place d').2) := fun d' hd => exec_wordFetch hs hd
  refine ⟨fun v hd => hword _ hd, fun hd => hword _ hd, fun f hd hf => ?_, fun n hd hn => ?_,
    fun shift width hd => ⟨_, testBit_bitField _ shift width, hword _ hd⟩,
    fun c signed shift width hd _ hw => ⟨_, fun i hi => testBit_channelField _ signed hw hi, hword _ hd⟩⟩
  · simpa [State.content, hf] using hword _ hd
  · simpa [State.content, hn] using hword _ hd

/-! ### Captures (R38 to R40) -/

section Capture

variable {s : State} {c : Nat}

theorem State.capture_fresh {p : LatestPart} (hk : (s.channel c).keeping = .latest p) (hf : p.freshness = .fresh) :
    s.capture c = (s.setChannel c { s.channel c with holdCell := (s.channel c).latestCell },
      (s.channel c).latestCell) := by
  simp [State.capture, hk, hf]

/-- The value of a capture outside FRESH (R39). -/
def Channel.staleValue (ch : Channel) (p : LatestPart) : Sample :=
  if p.policy = .hold then ch.latestCell else ch.fill

theorem State.capture_notFresh {p : LatestPart} (hk : (s.channel c).keeping = .latest p) (hf : p.freshness ≠ .fresh) :
    s.capture c = ((s.setChannel c { s.channel c with
        holdCell := (s.channel c).staleValue p
        counters := { (s.channel c).counters with
          staleCapture := satAdd (s.channel c).counters.staleCapture 1 } }).setFlag .stale,
      (s.channel c).staleValue p) := by
  unfold State.capture Channel.staleValue
  simp only [hk]
  split
  · exact absurd ‹_› hf
  all_goals cases p.policy <;> rfl

theorem State.capture_queued {p : QueuedPart} {oldest : Sample} {rest : List Sample}
    (hk : (s.channel c).keeping = .queued p) (hq : p.queue = oldest :: rest) :
    s.capture c = ({ s.setChannel c { s.channel c with
        holdCell := oldest, keeping := .queued { p with queue := rest } } with freeCells := s.freeCells + 1 },
      oldest) := by
  simp [State.capture, hk, hq]

theorem State.capture_underrun {p : QueuedPart} (hk : (s.channel c).keeping = .queued p) (hq : p.queue = []) :
    s.capture c = ((s.setChannel c { s.channel c with
        holdCell := (s.channel c).fill
        counters := { (s.channel c).counters with
          underrun := satAdd (s.channel c).counters.underrun 1 } }).report .underruns 1 .underrun,
      (s.channel c).fill) := by
  simp [State.capture, hk, hq]

end Capture

/-- Settles O16, by the four cases of a capture. -/
theorem channelCaptureWords : Obligations.ChannelCaptureWords := by
  intro s c shift width signed hs u ch hd _ hw emits
  have hemits : ∀ t v, u.capture c = (t, v) → emits t v := fun t v he =>
    ⟨channelField v signed shift width u.geometry.width, fun i hi => testBit_channelField v signed hw hi, by
      have hexec := exec_wordFetch hs hd
      simpa only [State.content, show s.atWord.capture c = (t, v) from he] using hexec⟩
  exact ⟨fun p hk hf => hemits _ _ (State.capture_fresh hk hf),
    fun p hk hf => hemits _ _ (State.capture_notFresh hk hf),
    fun p oldest rest hk hq => hemits _ _ (State.capture_queued hk hq),
    fun p hk hq => hemits _ _ (State.capture_underrun hk hq)⟩

/-! ### REPLY words (R129) -/

theorem ReplyQueue.unit_of_empty {q : ReplyQueue} (h : q.records = []) : q.unit = 0 := by
  simp [ReplyQueue.unit, h]

theorem ReplyQueue.advance_of_empty {q : ReplyQueue} (h : q.records = []) : q.advance = q := by
  simp [ReplyQueue.advance, h]

/-- The marks of a reply word stand above its byte. -/
theorem toNat_marks_or_byte {marks : BitVec 16} (h : marks = 0x0100 ∨ marks = 0x0300) (byte : Byte) :
    (marks ||| byte.setWidth 16).toNat = byte.toNat + marks.toNat := by
  rcases h with rfl | rfl <;> revert byte <;> decide

/-- VALID, and START at position 0, stand above the byte that is due. -/
theorem ReplyQueue.unit_of_byte {q : ReplyQueue} {head : List Byte} {rest : List (List Byte)} {byte : Byte}
    (hq : q.records = head :: rest) (hb : head[q.position]? = some byte) :
    q.unit.toNat = byte.toNat + 0x100 + if q.position = 0 then 0x200 else 0 := by
  have hbyte : byteAt head q.position = byte := by simp [byteAt, hb]
  simp only [ReplyQueue.unit, hq, hbyte]
  split
  · exact toNat_marks_or_byte (.inr rfl) byte
  · exact toNat_marks_or_byte (.inl rfl) byte

/-- The position moves on, and at the last byte the head is removed. -/
theorem ReplyQueue.advance_of_byte {q : ReplyQueue} {head : List Byte} {rest : List (List Byte)} {byte : Byte}
    (hq : q.records = head :: rest) (hb : head[q.position]? = some byte) :
    q.advance = if q.position + 1 = head.length then { q with records := rest, position := 0 }
      else { q with position := q.position + 1 } := by
  have hlt : q.position < head.length := (List.getElem?_eq_some_iff.1 hb).1
  simp only [ReplyQueue.advance, hq]
  by_cases h : q.position + 1 = head.length
  · rw [if_neg (by omega), if_pos h]
  · rw [if_pos (by omega), if_neg h]

/-- Settles O19. -/
theorem replyWordCarriesTheNextByte : Obligations.ReplyWordCarriesTheNextByte := by
  intro s hs u hd
  have hword : exec .wordFetch s = .next ({ u with replies := u.replies.advance }.handedOver u.replies.unit.toNat) :=
    exec_wordFetch hs hd
  refine ⟨fun he => ?_, fun head rest byte hq hb => ?_⟩
  · rw [hword, ReplyQueue.unit_of_empty he, ReplyQueue.advance_of_empty he]
    rfl
  · rw [hword, ReplyQueue.unit_of_byte hq hb, ReplyQueue.advance_of_byte hq hb]

end Sys2Proof.Machine

/-! ## PACKED words: each captured channel is captured once in a fetch (R37, R41). -/

namespace Sys2Proof.Machine

/-! ### What a capture does to its channel and leaves of the others (R38 to R40) -/

/-- A content that is listed is read back after its write, in any table. -/
theorem Table.get_put_self_of_ne {α : Type} [DecidableEq α] {d v : α} (t : Table α) (i : Nat) (hv : v ≠ d) :
    Table.get d (Table.put d t i v) i = v := by
  induction t with
  | nil => simp [Table.put, Table.cons, Table.get, hv]
  | cons e t ih =>
    obtain ⟨k, w⟩ := e
    unfold Table.put
    split
    · simp [Table.cons, Table.get, hv]
    · split
      · simp [Table.cons, Table.get, hv]
      · simp [Table.get, Ne.symm ‹¬ i = k›, ih]

/-- A capture of a defined channel writes its record, with the value captured in the hold cell (R38). -/
theorem State.capture_eq {s : State} {c : Nat} (hc : s.isUndefined c = false) :
    ∃ ch, (s.capture c).1.channels = Table.put .blank s.channels c ch
      ∧ ch.keeping ≠ .undefined ∧ ch.holdCell = (s.capture c).2 := by
  cases hk : (s.channel c).keeping with
  | undefined => simp [State.isUndefined, hk] at hc
  | latest p =>
    by_cases hf : p.freshness = .fresh
    · rw [State.capture_fresh hk hf]
      exact ⟨_, rfl, by simp [hk], rfl⟩
    · rw [State.capture_notFresh hk hf]
      exact ⟨_, rfl, by simp [hk], rfl⟩
  | queued p =>
    cases hq : p.queue with
    | nil =>
      rw [State.capture_underrun hk hq]
      exact ⟨_, rfl, by simp [hk], rfl⟩
    | cons oldest rest =>
      rw [State.capture_queued hk hq]
      exact ⟨_, rfl, by simp, rfl⟩

theorem State.capture_holdCell {s : State} {c : Nat} (hc : s.isUndefined c = false) :
    ((s.capture c).1.channel c).holdCell = (s.capture c).2 := by
  obtain ⟨ch, htable, hkeeping, hhold⟩ := State.capture_eq hc
  have hne : ch ≠ .blank := fun e => hkeeping (e ▸ rfl)
  rw [State.channel, htable, Table.get_put_self_of_ne _ _ hne, hhold]

theorem State.capture_channel_ne {s : State} {c k : Nat} (hc : s.isUndefined c = false) (hk : k ≠ c) :
    (s.capture c).1.channel k = s.channel k := by
  obtain ⟨ch, htable, -, -⟩ := State.capture_eq hc
  rw [State.channel, htable, Table.get_put_ne hk, State.channel]

/-- The value captured depends on the channel's record alone. -/
theorem State.capture_value_congr {s t : State} {c : Nat} (h : t.channel c = s.channel c) :
    (t.capture c).2 = (s.capture c).2 := by
  cases hk : (s.channel c).keeping with
  | undefined => simp [State.capture, h, hk]
  | latest p =>
    by_cases hf : p.freshness = .fresh
    · rw [State.capture_fresh hk hf, State.capture_fresh (h ▸ hk) hf, h]
    · rw [State.capture_notFresh hk hf, State.capture_notFresh (h ▸ hk) hf, h]
  | queued p =>
    cases hq : p.queue with
    | nil => rw [State.capture_underrun hk hq, State.capture_underrun (h ▸ hk) hq, h]
    | cons oldest rest => rw [State.capture_queued hk hq, State.capture_queued (h ▸ hk) hq]

/-! ### Captures of several channels, one after another -/

/-- The captures of the channels of a list, in its order. -/
def State.captureAll (s : State) (cs : List Nat) : State := cs.foldl (fun t c => (t.capture c).1) s

theorem State.captureAll_append_one (s : State) (cs : List Nat) (c : Nat) :
    s.captureAll (cs ++ [c]) = ((s.captureAll cs).capture c).1 := by
  simp [State.captureAll]

/-- The captures of other channels leave a channel's record. -/
theorem State.captureAll_channel {s : State} {cs : List Nat} {k : Nat} (hdef : ∀ c ∈ cs, s.isUndefined c = false)
    (hnd : cs.Nodup) (hk : k ∉ cs) : (s.captureAll cs).channel k = s.channel k := by
  induction cs using List.reverseRecOn generalizing k with
  | nil => rfl
  | append_singleton cs c ih =>
    simp only [List.mem_append, List.mem_singleton, not_or] at hk
    obtain ⟨hc, hnd'⟩ := (List.nodup_concat cs c).1 (by simpa only [List.concat_eq_append] using hnd)
    have ih' := fun {j} => ih (k := j) (fun a ha => hdef a (by simp [ha])) hnd'
    have hcdef : (s.captureAll cs).isUndefined c = false := by
      rw [State.isUndefined, ih' hc]
      exact hdef c (by simp)
    rw [State.captureAll_append_one, State.capture_channel_ne hcdef hk.2, ih' hk.1]

/-- A channel among those captured once holds the value that its capture in `s` produces. -/
theorem State.captureAll_holdCell {s : State} {cs : List Nat} {k : Nat} (hdef : ∀ c ∈ cs, s.isUndefined c = false)
    (hnd : cs.Nodup) (hk : k ∈ cs) : ((s.captureAll cs).channel k).holdCell = (s.capture k).2 := by
  induction cs using List.reverseRecOn with
  | nil => cases hk
  | append_singleton cs c ih =>
    obtain ⟨hc, hnd'⟩ := (List.nodup_concat cs c).1 (by simpa only [List.concat_eq_append] using hnd)
    have hdef' : ∀ a ∈ cs, s.isUndefined a = false := fun a ha => hdef a (by simp [ha])
    have hsame := State.captureAll_channel hdef' hnd' hc
    have hcdef : (s.captureAll cs).isUndefined c = false := by
      rw [State.isUndefined, hsame]
      exact hdef c (by simp)
    rw [State.captureAll_append_one]
    by_cases hkc : k = c
    · subst hkc
      rw [State.capture_holdCell hcdef, State.capture_value_congr hsame]
    · rw [State.capture_channel_ne hcdef hkc]
      exact ih hdef' hnd' (by simpa [hkc] using hk)

/-! ### The channels that a run captures (R41) -/

/-- The channel that a pick adds to those captured before. -/
def Pick.newCapture (seen : List Nat) : Pick → List Nat
  | .channelBit c _ .capture => if c ∈ seen then [] else [c]
  | .channelBit _ _ .held | .unset | .zero | .one => []

theorem firstCaptures_cons (seen : List Nat) (p : Pick) (ps : List Pick) :
    firstCaptures seen (p :: ps) = p.newCapture seen ++ firstCaptures (p.newCapture seen ++ seen) ps := by
  rcases p with _ | ⟨c, b, _ | _⟩ | _ | _
  case channelBit.capture => by_cases h : c ∈ seen <;> simp [firstCaptures, Pick.newCapture, h]
  all_goals rfl

theorem Pick.newCapture_congr {seen seen' : List Nat} (h : ∀ c, c ∈ seen ↔ c ∈ seen') (p : Pick) :
    p.newCapture seen = p.newCapture seen' := by
  rcases p with _ | ⟨c, b, _ | _⟩ | _ | _
  case channelBit.capture => simp [Pick.newCapture, h c]
  all_goals rfl

/-- One pick more captures its channel, if no pick before it does. -/
theorem firstCaptures_append_one (seen : List Nat) (ps : List Pick) (p : Pick) :
    firstCaptures seen (ps ++ [p]) = firstCaptures seen ps ++ p.newCapture (firstCaptures seen ps ++ seen) := by
  induction ps generalizing seen with
  | nil => simp [firstCaptures_cons, firstCaptures]
  | cons q ps ih =>
    rw [List.cons_append, firstCaptures_cons, firstCaptures_cons, ih, List.append_assoc, List.append_assoc]
    congr 2
    exact Pick.newCapture_congr (fun c => by simp only [List.mem_append]; tauto) p

theorem Pick.mem_newCapture {seen : List Nat} {p : Pick} {c : Nat} (h : c ∈ p.newCapture seen) :
    c ∉ seen ∧ ∃ b, p = .channelBit c b .capture := by
  rcases p with _ | ⟨k, b, _ | _⟩ | _ | _
  case channelBit.capture =>
    by_cases hk : k ∈ seen
    · simp [Pick.newCapture, hk] at h
    · simp only [Pick.newCapture, hk, if_false, List.mem_singleton] at h
      exact ⟨h ▸ hk, b, by rw [h]⟩
  all_goals cases h

theorem firstCaptures_nodup (ps : List Pick) : (firstCaptures [] ps).Nodup := by
  induction ps using List.reverseRecOn with
  | nil => exact List.nodup_nil
  | append_singleton ps p ih =>
    rw [firstCaptures_append_one]
    refine List.nodup_append.2 ⟨ih, ?_, fun a ha b hb e => ?_⟩
    · rcases p with _ | ⟨c, b, _ | _⟩ | _ | _
      case channelBit.capture => by_cases hc : c ∈ firstCaptures [] ps <;> simp [Pick.newCapture, hc]
      all_goals exact List.nodup_nil
    · exact (Pick.mem_newCapture hb).1 (by simp [← e, ha])

theorem mem_of_firstCaptures {ps : List Pick} {c : Nat} (h : c ∈ firstCaptures [] ps) :
    ∃ b, .channelBit c b .capture ∈ ps := by
  induction ps using List.reverseRecOn with
  | nil => cases h
  | append_singleton ps p ih =>
    rw [firstCaptures_append_one, List.mem_append] at h
    rcases h with h | h
    · obtain ⟨b, hb⟩ := ih h
      exact ⟨b, by simp [hb]⟩
    · obtain ⟨-, b, rfl⟩ := Pick.mem_newCapture h
      exact ⟨b, by simp⟩

/-! ### A run of picks, one after another -/

/-- The picks of a run after `before` continue what `packRun` has done with `before`. -/
structure State.PackedSoFar (u : State) (before : List Pick) (s : State) (done : List (Nat × Sample)) : Prop where
  state : s = u.captureAll (firstCaptures [] before)
  captured : ∀ c, done.lookup c = if c ∈ firstCaptures [] before then some (u.capture c).2 else none

/-- Every pick of the run is set, and every channel it names is defined (R21, R22). -/
structure State.RunOk (u : State) (run : List Pick) : Prop where
  set : .unset ∉ run
  defined : ∀ c b m, .channelBit c b m ∈ run → u.isUndefined c = false

theorem two_pow_mul_bit (i m : Nat) (b : Bool) :
    2 ^ i * Nat.bit b m = (if b then 2 ^ i else 0) + 2 ^ (i + 1) * m := by
  cases b <;> simp [Nat.bit, pow_succ] <;> ring

/-- The channels of the first picks are defined, each listed once. -/
theorem State.RunOk.firstCaptures_defined {u : State} {before ps : List Pick} (h : u.RunOk (before ++ ps)) :
    ∀ c ∈ firstCaptures [] before, u.isUndefined c = false := fun c hc =>
  let ⟨b, hb⟩ := mem_of_firstCaptures hc
  h.defined c b .capture (by simp [hb])

/-- One pick: its bit, and what is packed with it. -/
theorem State.packRun_cons {u s : State} {before ps : List Pick} {done : List (Nat × Sample)} {p : Pick}
    (hrun : u.RunOk (before ++ p :: ps)) (h : u.PackedSoFar before s done) :
    ∃ s' done', u.PackedSoFar (before ++ [p]) s' done'
      ∧ s.packRun before.length done (p :: ps)
        = ((s'.packRun (before.length + 1) done' ps).1,
          (if u.pickBit (before ++ p :: ps) before.length then 2 ^ before.length else 0)
            + (s'.packRun (before.length + 1) done' ps).2) := by
  have hget : (before ++ p :: ps).getD before.length .unset = p := by simp
  have htake : (before ++ p :: ps).take before.length = before := by simp
  have hdef := hrun.firstCaptures_defined
  have hnd := firstCaptures_nodup before
  have hkeep : p.newCapture (firstCaptures [] before ++ []) = [] → u.PackedSoFar (before ++ [p]) s done := fun hn =>
    ⟨by rw [firstCaptures_append_one, hn, List.append_nil]; exact h.state,
      by rw [firstCaptures_append_one, hn, List.append_nil]; exact h.captured⟩
  rcases p with _ | ⟨c, b, _ | _⟩ | _ | _
  case unset => exact absurd (by simp) hrun.set
  case zero => exact ⟨s, done, hkeep rfl, by simp [State.packRun, State.pickBit]⟩
  case one => exact ⟨s, done, hkeep rfl, by simp [State.packRun, State.pickBit]⟩
  case channelBit.held =>
    refine ⟨s, done, hkeep rfl, ?_⟩
    have hbit : u.pickBit (before ++ .channelBit c b .held :: ps) before.length
        = (s.channel c).holdCell.getLsbD b := by
      simp only [State.pickBit, hget, htake, reduceCtorEq, false_or, h.state]
      split
      · rw [State.captureAll_holdCell hdef hnd ‹_›]
      · rw [State.captureAll_channel hdef hnd ‹_›]
    rw [hbit, State.packRun]
  case channelBit.capture =>
    have hbit : u.pickBit (before ++ .channelBit c b .capture :: ps) before.length = (u.capture c).2.getLsbD b := by
      simp only [State.pickBit, hget, true_or, if_true]
    have hlookup := h.captured c
    rw [hbit, State.packRun]
    by_cases hc : c ∈ firstCaptures [] before
    · rw [if_pos hc] at hlookup
      exact ⟨s, done, hkeep (by simp [Pick.newCapture, hc]), by rw [hlookup]⟩
    · rw [if_neg hc] at hlookup
      have hvalue : (s.capture c).2 = (u.capture c).2 :=
        State.capture_value_congr (by rw [h.state, State.captureAll_channel hdef hnd hc])
      have hfirst : firstCaptures [] (before ++ [.channelBit c b .capture]) = firstCaptures [] before ++ [c] := by
        simp [firstCaptures_append_one, Pick.newCapture, hc]
      refine ⟨(s.capture c).1, (c, (s.capture c).2) :: done, ⟨?_, fun k => ?_⟩, by simp only [hlookup, hvalue]⟩
      · rw [hfirst, State.captureAll_append_one, ← h.state]
      · rw [hfirst, List.lookup_cons, hvalue, h.captured k]
        by_cases hk : k = c
        · simp [hk]
        · simp [hk, beq_false_of_ne hk]

/-- The rest of a run: its captures follow those made before, and pick `j` of it is bit `j` above those of `before`. -/
theorem State.packRun_eq {u s : State} {before ps : List Pick} {done : List (Nat × Sample)}
    (hrun : u.RunOk (before ++ ps)) (h : u.PackedSoFar before s done) :
    ∃ m, s.packRun before.length done ps
        = (u.captureAll (firstCaptures [] (before ++ ps)), 2 ^ before.length * m)
      ∧ ∀ j, m.testBit j = (decide (j < ps.length) && u.pickBit (before ++ ps) (before.length + j)) := by
  induction ps generalizing before s done with
  | nil => exact ⟨0, by simp [State.packRun, h.state], by simp⟩
  | cons p ps ih =>
    obtain ⟨s', done', h', e⟩ := State.packRun_cons hrun h
    have happ : before ++ [p] ++ ps = before ++ p :: ps := by simp
    obtain ⟨m, em, hm⟩ := ih (happ ▸ hrun) h'
    rw [List.length_append, List.length_singleton, happ] at em hm
    refine ⟨Nat.bit (u.pickBit (before ++ p :: ps) before.length) m, ?_, fun j => ?_⟩
    · rw [e, em, two_pow_mul_bit]
    · cases j with
      | zero => simp
      | succ j => simp [Nat.testBit_bit_succ, hm, Nat.add_assoc, Nat.add_comm 1 j]

@[simp] theorem State.length_pickRun (s : State) (a n : Nat) : (s.pickRun a n).length = n := by
  unfold State.pickRun
  split <;> simp

/-- Settles O17, by induction on the run: before its first pick nothing is captured. -/
theorem packedWordsCaptureEachChannelOnce : Obligations.PackedWordsCaptureEachChannelOnce := by
  intro s a n hs u run hd hset hdef
  obtain ⟨x, ex, hx⟩ := State.packRun_eq (u := u) (s := u) (before := []) (ps := run) (done := [])
    ⟨hset, hdef⟩ ⟨rfl, fun c => rfl⟩
  refine ⟨x, fun i => by simpa [run] using hx i, ?_⟩
  rw [exec_wordFetch hs hd]
  simp only [List.length_nil, pow_zero, one_mul, List.nil_append] at ex
  exact congrArg (fun r : State × Nat => Host.Outcome.next (r.1.handedOver r.2)) ex

end Sys2Proof.Machine

/-! ## The frame start, the freshness tick, and where the format in force changes (R27, R45 to R49, R79, R113). -/

namespace Sys2Proof.Machine

/-! ### The frame start (R46) -/

/-- Steps 1 to 4 of the frame start, field by field (R45, R47, R49, R113, R121). -/
theorem State.frameBegun_eq (s : State) : s.frameBegun = { s with
    engine := { s.engine with
      frameIndex := some (nextFrameIndex s.geometry.depth s.engine.frameIndex)
      frameCount := some (nextFrameCount s.engine.frameCount) }
    timeBase := s.timeBase.frameStart
    serial := if s.engine.frameIndex = none then { s.serial with ratioN := 1, ratioD := 64, accumulator := 0 }
      else s.serial } := by
  unfold State.frameBegun State.bootRatio
  cases s.engine.frameIndex <;> rfl

/-- Settles O20: the first steps are `frameBegun`, and step 6 is made where the frame index is 0. -/
theorem frameStartWorkInOrder : Obligations.FrameStartWorkInOrder := by
  refine ⟨fun s hp => if_neg hp, fun s hn => by simp [State.carryOut, hn], fun s f hp hf => ?_⟩
  intro t
  have hindex : nextFrameIndex s.geometry.depth s.engine.frameIndex = f := hf.symm
  have ht : s.frameBegun.tick = t := by
    rw [s.frameBegun_eq, hindex]
    rfl
  have hstart : s.atWord = if f = 0 then t.carryOut else t := by
    rw [State.atWord, if_pos hp, s.frameStart_eq, hindex, ht]
  exact ⟨fun h0 => by rw [hstart, if_pos h0], fun h0 => by rw [hstart, if_neg h0]⟩

/-! ### The freshness tick (R79, R81) -/

/-- Ages stop at 255, which no limit reaches, so the age before the tick decides. -/
theorem Channel.tick_latest {ch : Channel} {p : LatestPart} (hk : ch.keeping = .latest p)
    (hages : ch.agesWell = true) : ch.tick = { ch with keeping := .latest { p with
      age := if p.age = 255 then 255 else p.age + 1
      freshness := if p.freshness = .fresh ∧ p.limit ≠ 0 ∧ p.limit < p.age + 1 then .stale else p.freshness } } := by
  simp only [Channel.agesWell, hk, Bool.and_eq_true, decide_eq_true_eq] at hages
  obtain ⟨⟨⟨hage, hlimit⟩, -⟩, -⟩ := hages
  have hmin : min 255 (p.age + 1) = if p.age = 255 then 255 else p.age + 1 := by split <;> omega
  have hlt : (p.limit < if p.age = 255 then 255 else p.age + 1) ↔ p.limit < p.age + 1 := by split <;> omega
  simp only [Channel.tick, hk, hmin, hlt]

theorem Channel.tickNotice_iff {ch : Channel} (hages : ch.agesWell = true) : ch.tickNotice = true ↔
    ∃ p, ch.keeping = .latest p ∧ p.freshness = .fresh ∧ p.limit ≠ 0 ∧ p.limit < p.age + 1 ∧ p.notify = true := by
  cases hk : ch.keeping with
  | undefined => simp [Channel.tickNotice, hk]
  | queued p => simp [Channel.tickNotice, hk]
  | latest p =>
    simp only [Channel.agesWell, hk, Bool.and_eq_true, decide_eq_true_eq] at hages
    obtain ⟨⟨⟨-, hlimit⟩, -⟩, -⟩ := hages
    have hlt : p.limit < min 255 (p.age + 1) ↔ p.limit < p.age + 1 := by omega
    simp [Channel.tickNotice, hk, hlt, and_assoc]

/-- A tick leaves the kind of a channel. -/
theorem Channel.tick_keeping_undefined (ch : Channel) : ch.tick.keeping = .undefined ↔ ch.keeping = .undefined := by
  cases hk : ch.keeping <;> simp [Channel.tick, hk]

/-- The numbers of a canonical table rise. -/
theorem Table.pairwise_fst {α : Type} [DecidableEq α] {d : α} {lo : Nat} {t : Table α}
    (hw : Table.wfFrom d lo t = true) : (t.map Prod.fst).Pairwise (· < ·) := by
  induction t generalizing lo with
  | nil => exact List.Pairwise.nil
  | cons e t ih =>
    obtain ⟨k, v⟩ := e
    obtain ⟨-, -, hw'⟩ := Table.wfFrom_cons_iff.1 hw
    refine List.pairwise_cons.2 ⟨fun j hj => ?_, ih hw'⟩
    obtain ⟨e, he, rfl⟩ := List.mem_map.1 hj
    exact Table.le_of_mem hw' he

/-- The channels whose tick raises a notice, in the order of the table. -/
def staleRaised (t : Table Channel) : List Nat := (t.filter fun e => e.2.tickNotice).map Prod.fst

theorem mem_staleRaised {t : Table Channel} (hw : Table.wf .blank t = true) (c : Nat) :
    c ∈ staleRaised t ↔ (Table.get .blank t c).tickNotice = true := by
  simp only [staleRaised, List.mem_map, List.mem_filter, Prod.exists, exists_and_right, exists_eq_right]
  constructor
  · rintro ⟨ch, hmem, hn⟩
    rwa [((Table.mem_iff hw).1 hmem).2]
  · intro hn
    rcases Table.get_mem_or (d := .blank) t c with hmem | hblank
    · exact ⟨_, hmem, hn⟩
    · rw [hblank] at hn
      cases hn

theorem State.FreshnessInv.agesWell {s : State} (h : s.FreshnessInv) (c : Nat) : (s.channel c).agesWell = true := by
  rcases Table.get_mem_or (d := .blank) s.channels c with hmem | hblank
  · exact h _ hmem
  · rw [State.channel, hblank]
    rfl

/-- Settles O21: the tick is one update of the table, and its notices follow the table's rising numbers. -/
theorem freshnessTickAgesLatestChannels : Obligations.FreshnessTickAgesLatestChannels := by
  rintro s ⟨hw, hlisted, -⟩ hfresh
  refine ⟨staleRaised s.channels, Table.update (fun _ ch => ch.tick) s.channels,
    (Table.pairwise_fst hw).sublist (List.filter_sublist.map _), fun c => ?_, ?_, fun c => ?_, rfl⟩
  · rw [mem_staleRaised hw]
    exact Channel.tickNotice_iff (State.FreshnessInv.agesWell hfresh c)
  · refine Table.wf_update hw fun e he hblank => ?_
    obtain ⟨-, hdef, -⟩ := hlisted e he
    exact hdef ((Channel.tick_keeping_undefined e.2).1 (by rw [hblank]; rfl))
  · have hget : Table.get .blank (Table.update (fun _ ch => ch.tick) s.channels) c = (s.channel c).tick :=
      Table.get_update c rfl
    rw [hget]
    cases hk : (s.channel c).keeping with
    | undefined => simp [Channel.tick, hk]
    | queued p => simp [Channel.tick, hk]
    | latest p => exact Channel.tick_latest hk (State.FreshnessInv.agesWell hfresh c)

/-! ### Where the format in force changes (R27, R45) -/

/-- Step 6 alone of the frame start changes the format in force, at frame index 0. -/
theorem State.frameStart_inForce (s : State) (h : s.frameStart.engine.inForce ≠ s.engine.inForce) :
    s.frameStart.engine.frameIndex = some 0 := by
  have he : s.frameBegun.tick.engine = s.frameBegun.engine := (State.tick_sameFormats _).engine
  rw [s.frameStart_eq] at h ⊢
  split at h
  · rename_i hf
    obtain ⟨_, _, _, _, _, _, _, _, _, _, _, _, e⟩ := s.frameBegun.tick.carryOut_frame
    rw [if_pos hf, e]
    exact (congrArg Engine.frameIndex he).trans (congrArg some hf)
  · exact absurd (congrArg Engine.inForce he) h

/-- A word fetch changes the format in force only at place 0 of a cycle boundary. -/
theorem State.fetch_inForce (s : State) (h : s.fetch.endStrobe.engine.inForce ≠ s.engine.inForce) :
    s.engine.place = 0 ∧ s.fetch.endStrobe.engine.frameIndex = some 0 := by
  rw [s.fetch_eq] at h ⊢
  rw [State.handedOver_inForce, (State.content_sameFormats _ _ _).engine] at h
  rw [State.handedOver_frameIndex, (State.content_sameFormats _ _ _).engine]
  unfold State.atWord at h ⊢
  split at h
  · rename_i hp
    rw [if_pos hp]
    exact ⟨hp, s.frameStart_inForce h⟩
  · exact absurd rfl h

/-- A strobe changes it only as a word fetch. -/
theorem State.strobe_inForce (s : State) (h : s.strobe.engine.inForce ≠ s.engine.inForce) :
    s.engine.place = 0 ∧ s.wordNeeded = true ∧ s.strobe.engine.frameIndex = some 0 := by
  unfold State.strobe at h ⊢
  cases hw : s.serial.word with
  | none =>
    simp only [hw] at h
    obtain ⟨hp, hf⟩ := s.fetch_inForce h
    exact ⟨hp, by simp [State.wordNeeded, hw], hf⟩
  | some w =>
    simp only [hw] at h
    by_cases hr : s.serial.remaining = 0
    · simp only [hr, if_true] at h ⊢
      obtain ⟨hp, hf⟩ := s.fetch_inForce h
      exact ⟨hp, by simp [State.wordNeeded, hr], hf⟩
    · rw [if_neg hr] at h
      exact absurd rfl h

/-- A validation completion leaves the format in force and the place. -/
theorem State.completeValidation_inForce (s : State) :
    s.completeValidation.engine.inForce = s.engine.inForce
      ∧ s.completeValidation.engine.place = s.engine.place := by
  unfold State.completeValidation
  split
  · split <;> simp [State.completeFound, State.completePassed]
  · exact ⟨rfl, rfl⟩

/-- What a REFCLK edge finishes changes it only in the strobe that the last edge left due. -/
theorem State.finishEdge_inForce (s : State) (h : s.finishEdge.engine.inForce ≠ s.engine.inForce) :
    s.engine.place = 0 ∧ s.wordNeeded = true ∧ s.serial.strobeDue = true
      ∧ s.finishEdge.engine.frameIndex = some 0 := by
  obtain ⟨hforce, hplace⟩ := s.completeValidation_inForce
  have hserial : s.completeValidation.advanceTime.serial = s.serial := s.completeValidation_serial
  unfold State.finishEdge at h ⊢
  dsimp only at h ⊢
  rw [hserial] at h ⊢
  by_cases hdue : s.serial.strobeDue = true
  · rw [if_pos hdue] at h ⊢
    obtain ⟨hp, hw, hf⟩ := State.strobe_inForce _ fun e => h (e.trans hforce)
    exact ⟨hplace.symm.trans hp, by simpa [State.wordNeeded, hserial] using hw, hdue, hf⟩
  · rw [if_neg hdue] at h
    exact absurd hforce h

theorem State.edit_inForce (s : State) (r : CmdRecord) (change : Bank → Option Bank) :
    (s.edit r change).engine.inForce = s.engine.inForce := by
  rcases s.edit_cases r change with h | ⟨x, b, -, -, h⟩
  · rw [h.engine]
  · rw [h.engine, State.setBank_engine]

theorem State.switch_inForce (s : State) (r : CmdRecord) : (s.switch r).engine.inForce = s.engine.inForce := by
  unfold State.switch
  split
  · rfl
  · split_ifs <;> simp

theorem State.cancelSwitch_inForce (s : State) (x : BankId) (tag : Byte) :
    (s.cancelSwitch x tag).engine.inForce = s.engine.inForce := by
  simp [State.cancelSwitch]

theorem State.stop_inForce (s : State) (r : CmdRecord) : (s.stop r).engine.inForce = s.engine.inForce := by
  unfold State.stop
  split <;> simp [State.cancelSwitch_inForce, State.makeStopPending]

/-- No catalogued command changes the format in force at its take: SWITCH and STOP leave that to a cycle boundary. -/
theorem Command.owner_inForce (c : Command) (r : CmdRecord) (s : State) :
    (c.owner r s).engine.inForce = s.engine.inForce := by
  by_cases he : c.edits = true
  · rw [Command.owner_of_edits he, State.edit_inForce]
  by_cases hsw : c = .switch
  · exact hsw ▸ s.switch_inForce r
  by_cases hst : c = .stop
  · exact hst ▸ s.stop_inForce r
  · rw [(Command.owner_sameFormats (Bool.eq_false_iff.2 he) hsw hst r s).engine]

/-- What holds of the state as it stands, and of the act of a take, holds after the take. -/
theorem State.take_inForce {s t : State} {want : CmdRecord → Bool} {act : CmdRecord → State → State}
    (hact : ∀ r u, (act r u).engine.inForce = u.engine.inForce) (h : s.take want act = .next t) :
    t.engine.inForce = s.engine.inForce := by
  rcases s.take_cases want act with ⟨r, -, -, e⟩ | e <;> cases e.symm.trans h
  · rw [hact, State.beginTake_engine]
  · rfl

theorem exec_row_inForce {c : Command} {i : Instr} (hrow : c.row = some i) {s t : State} (h : exec i s = .next t) :
    t.engine.inForce = s.engine.inForce := by
  rw [exec_row hrow] at h
  refine State.take_inForce (fun r u => ?_) h
  split
  · exact c.owner_inForce r u
  · rfl

/-- Settles O59, command by command: but for the resets, only a strobe that is a word fetch reaches the format in
force, and a REFCLK edge makes one where the last edge left it due. -/
theorem formatChangesAtBoundariesAlone : Obligations.FormatChangesAtBoundariesAlone := by
  intro i s t h hne
  cases hrow : catalogued i with
  | some c => exact absurd (exec_row_inForce (row_of_catalogued hrow) h) hne
  | none =>
  cases i with
  | pinResetAssert lmode => exact .inl ⟨lmode, rfl⟩
  | resetPartRestart => exact .inr (.inl rfl)
  | resetPartFull => exact .inr (.inr (.inl rfl))
  | wordFetch =>
    simp only [exec, execWordFetch] at h
    split at h <;> cases h
    · rename_i hs
      obtain ⟨hp, hf⟩ := s.fetch_inForce hne
      exact .inr (.inr (.inr ⟨hp, hs.2, hs.1, hf⟩))
    · exact absurd rfl hne
  | bitStrobe =>
    simp only [exec, execBitStrobe] at h
    split at h <;> cases h
    · rename_i hs
      obtain ⟨hp, hw, hf⟩ := s.strobe_inForce hne
      exact .inr (.inr (.inr ⟨hp, hw, hs, hf⟩))
    · exact absurd rfl hne
  | refclkRisingEdge order =>
    simp only [exec, execRefclkRisingEdge] at h
    split at h <;> cases h
    · rename_i hr
      rw [State.refclkEdge_engine] at hne
      obtain ⟨hp, hw, hdue, hf⟩ := s.finishEdge_inForce hne
      exact .inr (.inr (.inr ⟨hp, hw, by simp [State.strobeOccurs, hr, hdue], by rw [State.refclkEdge_engine, hf]⟩))
    · exact absurd rfl hne
  | unknownCommand =>
    rw [exec, execUnknownCommand] at h
    exact absurd (State.take_inForce (fun r u => congrArg Engine.inForce (u.reply_engine r _ _)) h) hne
  | resetPartRefused =>
    rw [exec, execResetPartRefused] at h
    refine absurd (State.take_inForce (fun r u => ?_) h) hne
    split <;> rfl
  | pinResetRelease lmode adr1 adr0 =>
    simp only [exec, execPinResetRelease] at h
    split at h <;> cases h
    · exact absurd (by simp [State.releaseReset, State.ready]) hne
    · exact absurd rfl hne
  | messageCompletion =>
    simp only [exec, execMessageCompletion] at h
    split at h <;> cases h
    · exact absurd (congrArg Engine.inForce (State.completeMessage_sameFormats _).engine) hne
    · exact absurd rfl hne
  | ifrmFall =>
    simp only [exec, execIfrmFall] at h
    split at h
    · cases h
      exact absurd rfl hne
    · split at h <;> cases h <;> exact absurd rfl hne
  | iclkRisingEdge idat =>
    simp only [exec, execIclkRisingEdge] at h
    split at h <;> cases h <;> exact absurd rfl hne
  | timeCounterAdvance =>
    cases h
    exact absurd rfl hne
  | validationCompletion =>
    cases h
    exact absurd s.completeValidation_inForce.1 hne
  | _ => cases hrow

end Sys2Proof.Machine

/-! ## The reply queue: records, reservations, and what a reset, a notice, a REPLY fetch and an answer leave of them
(R124 to R131, R134). -/

namespace Sys2Proof.Machine

/-! ### Records (R128) -/

@[simp] theorem length_replyRecord (tag code status : Byte) (payload : List Byte) :
    (replyRecord tag code status payload).length = 5 + payload.length := by
  simp [replyRecord]
  omega

/-- CHECK brings the sum of a record's bytes to 0 (R174). -/
theorem sum_replyRecord (tag code status : Byte) (payload : List Byte) :
    (replyRecord tag code status payload).foldl (· + ·) 0 = 0 := by
  rw [replyRecord, List.foldl_append, List.foldl_cons, List.foldl_nil, checkByte]
  exact add_sub_cancel _ _

theorem recordOk_replyRecord (tag code status : Byte) {payload : List Byte} (h : payload.length ≤ 32) :
    recordOk (replyRecord tag code status payload) = true := by
  have hfirst : (byteAt (replyRecord tag code status payload) 0).toNat = 5 + payload.length := by
    simp only [replyRecord, List.cons_append, byteAt_cons_zero, BitVec.toNat_ofNat]
    omega
  simp only [recordOk, sum_replyRecord, hfirst, length_replyRecord, beq_self_eq_true, Bool.and_true, Bool.and_eq_true,
    decide_eq_true_eq]
  omega

/-! ### The bounds of the queue (R124) -/

/-- Records and reservations within 16 places and 512 bytes, every record well made, and the emission position in the
head record: what `State.ReplyInv` asks of the queue alone (R124, R128). -/
def ReplyQueue.Ok (q : ReplyQueue) : Prop :=
  q.records.length + q.reservations.length ≤ 16
  ∧ recordBytes q.records + reservedBytes q.reservations ≤ 512
  ∧ q.records.all recordOk = true
  ∧ q.positionOk = true

theorem State.replyInv_iff (s : State) : s.ReplyInv ↔
    s.replies.reservations = s.owed
    ∧ (s.validation.isSome = true → s.engine.pendingSwitch = none)
    ∧ s.replies.Ok := Iff.rfl

theorem State.ReplyInv.reservations {s : State} (hs : s.ReplyInv) : s.replies.reservations = s.owed := by
  obtain ⟨hres, -, -⟩ := (State.replyInv_iff s).1 hs
  exact hres

theorem State.ReplyInv.free {s : State} (hs : s.ReplyInv) :
    s.validation.isSome = true → s.engine.pendingSwitch = none := by
  obtain ⟨-, hfree, -⟩ := (State.replyInv_iff s).1 hs
  exact hfree

theorem State.ReplyInv.ok {s : State} (hs : s.ReplyInv) : s.replies.Ok := by
  obtain ⟨-, -, hok⟩ := (State.replyInv_iff s).1 hs
  exact hok

theorem ReplyQueue.empty_ok : ReplyQueue.empty.Ok := ⟨by decide, by decide, rfl, rfl⟩

/-- A well made record that finds its place and its bytes free joins the queue. -/
theorem ReplyQueue.Ok.append {q : ReplyQueue} (hq : q.Ok) {record : List Byte} (hr : recordOk record = true)
    (hplace : 1 ≤ q.freePlaces) (hbytes : record.length ≤ q.freeBytes) : (q.append record).Ok := by
  obtain ⟨hplaces, hsum, hrecords, hpos⟩ := hq
  simp only [ReplyQueue.freePlaces, ReplyQueue.freeBytes] at hplace hbytes
  refine ⟨?_, ?_, by simpa [ReplyQueue.append, hr] using hrecords, ?_⟩
  · simp only [ReplyQueue.append, List.length_append, List.length_singleton]
    omega
  · simp only [ReplyQueue.append, recordBytes, List.map_append, List.sum_append, List.map_singleton,
      List.sum_singleton] at hbytes hsum ⊢
    omega
  · cases h : q.records with
    | nil =>
      simp only [ReplyQueue.positionOk, h, beq_iff_eq] at hpos
      simp only [recordOk, Bool.and_eq_true, decide_eq_true_eq] at hr
      simp only [ReplyQueue.positionOk, ReplyQueue.append, h, hpos, List.nil_append, decide_eq_true_eq]
      omega
    | cons head rest => simpa [ReplyQueue.positionOk, ReplyQueue.append, h] using hpos

/-- A reservation that finds its place and its bytes free is added (R125). -/
theorem ReplyQueue.Ok.reserve {q : ReplyQueue} (hq : q.Ok) {e : Reservation} (hplace : 1 ≤ q.freePlaces)
    (hbytes : e.size ≤ q.freeBytes) : (q.reserve e).Ok := by
  obtain ⟨hplaces, hsum, hrecords, hpos⟩ := hq
  simp only [ReplyQueue.freePlaces, ReplyQueue.freeBytes] at hplace hbytes
  refine ⟨?_, ?_, hrecords, hpos⟩
  · simp only [ReplyQueue.reserve, List.length_append, List.length_singleton]
    omega
  · simp only [ReplyQueue.reserve, reservedBytes, List.map_append, List.sum_append, List.map_singleton,
      List.sum_singleton] at hbytes hsum ⊢
    omega

/-- A REPLY fetch moves within the head record, or removes it with its last byte (R129). -/
theorem ReplyQueue.Ok.advance {q : ReplyQueue} (hq : q.Ok) : q.advance.Ok := by
  unfold ReplyQueue.advance
  cases h : q.records with
  | nil => exact hq
  | cons head rest =>
    obtain ⟨hplaces, hsum, hrecords, -⟩ := hq
    dsimp only
    split
    · rename_i hnext
      exact ⟨h ▸ hplaces, h ▸ hsum, h ▸ hrecords, decide_eq_true hnext⟩
    · simp only [h, List.length_cons, recordBytes, List.map_cons, List.sum_cons, List.all_cons,
        Bool.and_eq_true] at hplaces hsum hrecords
      refine ⟨by simp only; omega, by simp only [recordBytes]; omega, hrecords.2, ?_⟩
      cases hrest : rest with
      | nil => rfl
      | cons next _ =>
        have hnext : recordOk next = true := List.all_eq_true.1 hrecords.2 next (by simp [hrest])
        simp only [recordOk, Bool.and_eq_true, decide_eq_true_eq] at hnext
        simp only [ReplyQueue.positionOk, decide_eq_true_eq]
        omega

/-- The removal of a reservation that was held frees one place and its bytes (R126). -/
theorem ReplyQueue.release_frees {q : ReplyQueue} {tag code : Byte} {n : Nat}
    (hheld : ∃ e ∈ q.reservations, e.tag = tag ∧ e.code = code)
    (hsize : ∀ e ∈ q.reservations, e.tag = tag → e.code = code → n ≤ e.size) :
    (q.release tag code).reservations.length + 1 = q.reservations.length
    ∧ reservedBytes (q.release tag code).reservations + n ≤ reservedBytes q.reservations := by
  obtain ⟨e, he, htag, hcode⟩ := hheld
  obtain ⟨a, l, r, -, ha, heq, hrelease⟩ := List.exists_of_eraseP (p := fun r => r.tag == tag && r.code == code) he
    (by simp [htag, hcode])
  simp only [Bool.and_eq_true, beq_iff_eq] at ha
  have hn := hsize a (by simp [heq]) ha.1 ha.2
  simp only [ReplyQueue.release, hrelease]
  simp only [heq, reservedBytes, List.length_append, List.length_cons, List.map_append, List.map_cons,
    List.sum_append, List.sum_cons]
  omega

/-- A reservation becomes a record that is no longer than its size (R126). -/
theorem ReplyQueue.Ok.convert {q : ReplyQueue} (hq : q.Ok) {tag code : Byte} (status : Byte) {payload : List Byte}
    (hheld : ∃ e ∈ q.reservations, e.tag = tag ∧ e.code = code)
    (hsize : ∀ e ∈ q.reservations, e.tag = tag → e.code = code → 5 + payload.length ≤ e.size)
    (hlen : payload.length ≤ 32) :
    ((q.release tag code).append (replyRecord tag code status payload)).Ok := by
  obtain ⟨hplaces, hsum, hrecords, hpos⟩ := hq
  obtain ⟨hplace, hbytes⟩ := ReplyQueue.release_frees hheld hsize
  have hrecord := recordOk_replyRecord tag code status hlen
  refine ReplyQueue.Ok.append (q := q.release tag code) ⟨?_, ?_, hrecords, hpos⟩ hrecord ?_ ?_
  · simp only [ReplyQueue.release] at hplace ⊢
    omega
  · simp only [ReplyQueue.release] at hbytes ⊢
    omega
  · simp only [ReplyQueue.freePlaces, ReplyQueue.release] at hplace ⊢
    omega
  · simp only [ReplyQueue.freeBytes, ReplyQueue.release, length_replyRecord] at hbytes ⊢
    omega

/-! ### What is owed (R65, R125) -/

theorem State.owed_of_validation {s : State} {v : Validation} (hv : s.validation = some v) :
    s.owed = [⟨v.tag, 0x30, 9⟩] := by
  simp [State.owed, hv, Command.code]

theorem State.owed_of_switch {s : State} {x : BankId} {tag : Byte} (hv : s.validation = none)
    (hp : s.engine.pendingSwitch = some ⟨.bank x, tag⟩) : s.owed = [⟨tag, 0x30, 9⟩] := by
  simp [State.owed, hv, hp, Command.code]

theorem State.owed_of_stop {s : State} {tag : Byte} (hv : s.validation = none)
    (hp : s.engine.pendingSwitch = some ⟨.boot, tag⟩) : s.owed = [⟨tag, 0x31, 9⟩] := by
  simp [State.owed, hv, hp, Command.code]

theorem State.owed_of_idle {s : State} (hv : s.validation = none) (hp : s.engine.pendingSwitch = none) :
    s.owed = [] := by
  simp [State.owed, hv, hp]

/-- Nothing is in validation while a switch or stop is pending. -/
theorem State.ReplyInv.validation_none {s : State} (hs : s.ReplyInv) {w : PendingSwitch}
    (hp : s.engine.pendingSwitch = some w) : s.validation = none := by
  by_contra hv
  have hfree := hs.free (Option.isSome_iff_ne_none.2 hv)
  rw [hp] at hfree
  cases hfree

/-- The one reservation that is held becomes a record, and none is held (R65, R126). -/
theorem ReplyQueue.convert_single {q : ReplyQueue} {tag code : Byte} {n : Nat}
    (h : q.reservations = [⟨tag, code, n⟩]) (record : List Byte) :
    (q.release tag code).append record = { q with records := q.records ++ [record], reservations := [] } := by
  simp [ReplyQueue.release, ReplyQueue.append, h]

end Sys2Proof.Machine

/-! ## SWITCH and STOP at their takes, a pending switch or stop at a cycle boundary, and the pin reset (R56, R57, R60 to
R64, R66). -/

namespace Sys2Proof.Machine

/-! ### The pin flags of every channel (R55, R64) -/

/-- A channel that is referenced is defined. -/
theorem State.PinInv.defined {s : State} (hs : s.PinInv) {c : Nat}
    (hc : c ∈ s.engine.activeRefs ++ s.engine.pendingRefs ++ s.validationRefs) : s.isUndefined c = false := by
  obtain ⟨-, hdefined, -, -⟩ := hs
  exact hdefined c hc

theorem State.PinInv.activeRefs_eq_nil {s : State} (hs : s.PinInv) (hboot : s.engine.inForce = .boot) :
    s.engine.activeRefs = [] := by
  obtain ⟨-, -, hactive, -⟩ := hs
  exact hactive hboot

theorem State.PinInv.pendingRefs_eq_nil {s : State} (hs : s.PinInv)
    (hp : s.engine.pendingSwitch = none ∨ s.engine.pendingSwitch.map PendingSwitch.target = some .boot) :
    s.engine.pendingRefs = [] := by
  obtain ⟨-, -, -, hpending⟩ := hs
  exact hpending hp

/-- The pin flags of any channel, listed or not, are membership in the reference sets. -/
theorem State.PinInv.flags {s : State} (hs : s.PinInv) (c : Nat) :
    (s.channel c).activeRef = s.engine.activeRefs.contains c
    ∧ (s.channel c).pendingRef = s.engine.pendingRefs.contains c := by
  rcases Table.get_mem_or (d := .blank) s.channels c with hmem | hblank
  · exact hs.1 _ hmem
  · have hundef : s.isUndefined c = true := (s.isUndefined_iff c).2 (by rw [State.channel, hblank]; rfl)
    have hfree : ∀ refs : List Nat, (∀ k ∈ refs, s.isUndefined k = false) → false = refs.contains c := by
      intro refs hrefs
      refine (Bool.eq_false_iff.2 fun hc => ?_).symm
      rw [hrefs c (by simpa using hc)] at hundef
      cases hundef
    rw [State.channel, hblank]
    exact ⟨hfree _ fun k hk => hs.defined (by simp [hk]), hfree _ fun k hk => hs.defined (by simp [hk])⟩

/-- New pin flags keep the table canonical, and are read back at every channel that is defined or gets none. -/
theorem State.setPins_table {s : State} (hs : s.PoolInv) (active pending : Nat → Bool → Bool) :
    Table.wf .blank (s.setPins active pending).channels = true
    ∧ ∀ c, (s.channel c = .blank → active c false = false ∧ pending c false = false) →
      Table.get .blank (s.setPins active pending).channels c =
        { s.channel c with
          activeRef := active c (s.channel c).activeRef
          pendingRef := pending c (s.channel c).pendingRef } := by
  obtain ⟨hw, hlisted, -⟩ := hs
  rw [State.setPins_channels]
  refine ⟨Table.wf_update hw fun e he hblank => ?_, fun c hc => Table.get_update_of_get c fun hblank => ?_⟩
  · exact (hlisted e he).2.1 (congrArg Channel.keeping hblank)
  · obtain ⟨ha, hp⟩ := hc hblank
    simp [Channel.blank, ha, hp]

/-! ### SWITCH (R56, R57) -/

/-- The take of a SWITCH whose selector names no bank. -/
theorem State.switch_noBank {s : State} {r : CmdRecord} (hx : bankOf (byteAt r.args 0) = none) :
    s.switch r = s.reply r .badArgument [] := by
  simp only [State.switch, hx]

/-- The take of a SWITCH to bank `x`, by the order of R56. -/
theorem State.switch_bank {s : State} {r : CmdRecord} {x : BankId} (hx : bankOf (byteAt r.args 0) = some x) :
    s.switch r =
      if s.engine.pendingSwitch ≠ none ∨ s.engine.frameIndex = none then s.reply r .busy []
      else if (s.bank x).state = .active then s.reply r .bankActive []
      else { s.setBankState x .validating with validation := some ⟨x, r.tag, .test .geometry⟩ } := by
  simp only [State.switch, hx]
  cases s.engine.pendingSwitch <;> cases s.engine.frameIndex <;> simp

/-- Settles O47: the refusals are answered at the take, and an accepted SWITCH keeps what its take reserved. -/
theorem switchStartsValidation : Obligations.SwitchStartsValidation := by
  intro s r selector hq ht hcode hargs
  have h : s.TakesNow r .switch .switch := ⟨hq, ht, hcode, by simp [hargs, Command.accepts], rfl⟩
  have hselector : byteAt r.args 0 = selector := by simp [hargs]
  have hexec : exec .switch s = .next ((s.beginTake r).switch r) := h.exec_eq
  refine ⟨fun hrange => ?_, fun x hx => ⟨fun hbusy => ?_, fun hp hf => ⟨fun hact => ?_, fun hed => ?_⟩⟩⟩
  · rw [hexec, State.switch_noBank (hselector ▸ bankOf_of_two_le hrange), h.answered]
    rfl
  all_goals
    have hbank : bankOf (byteAt r.args 0) = some x := by rw [hselector, hx, bankOf_selector]
    rw [hexec, State.switch_bank hbank]
    simp only [State.beginTake_engine, State.beginTake_bank]
  · rw [if_pos hbusy, h.answered]
    rfl
  · rw [if_neg (by simp [hp, hf]), if_pos hact, h.answered]
    rfl
  · rw [if_neg (by simp [hp, hf]), if_neg (by simp [hed])]
    cases x <;> simp [State.beginTake, h.replyNeed, State.setBankState, State.setBank, State.bank,
      ReplyQueue.reserve, Command.maxReply, hcode]

/-! ### STOP (R61, R62) -/

/-- The cancellation of the switch to bank `x`, the one reservation but for that of the STOP taken (R62). -/
theorem State.cancelSwitch_eq {s : State} {x : BankId} {tag : Byte} {rest : List Reservation}
    (hres : s.replies.reservations = ⟨tag, 0x30, 9⟩ :: rest) :
    s.cancelSwitch x tag = { s.setBankState x .editable with
      channels := (s.setPins (fun _ a => a) (fun c p => p && !s.engine.pendingRefs.contains c)).channels
      engine := { s.engine with pendingRefs := [], pendingSwitch := none }
      replies := { s.replies with
        records := s.replies.records ++ [replyRecord tag 0x30 0x03 []], reservations := rest } } := by
  simp [State.cancelSwitch, State.convert, ReplyQueue.release, ReplyQueue.append, hres, State.setPins,
    Command.code, Status.code]

/-- The take of a STOP with nothing pending (R61). -/
theorem State.stop_of_idle {s : State} {r : CmdRecord} (hp : s.engine.pendingSwitch = none) :
    s.stop r = if s.engine.inForce = .boot then s.reply r .ok [] else s.makeStopPending r.tag := by
  unfold State.stop
  cases hf : s.engine.inForce <;> simp [hp]

/-- The take of a STOP with a stop pending (R61). -/
theorem State.stop_of_stop {s : State} {r : CmdRecord} {tag : Byte}
    (hp : s.engine.pendingSwitch = some ⟨.boot, tag⟩) : s.stop r = s.reply r .busy [] := by
  unfold State.stop
  cases hf : s.engine.inForce <;> simp [hp]

/-- The take of a STOP with a switch pending (R61, R62). -/
theorem State.stop_of_switch {s : State} {r : CmdRecord} {x : BankId} {tag : Byte}
    (hp : s.engine.pendingSwitch = some ⟨.bank x, tag⟩) :
    s.stop r = if s.engine.inForce = .boot then (s.cancelSwitch x tag).reply r .ok []
      else (s.cancelSwitch x tag).makeStopPending r.tag := by
  unfold State.stop
  cases hf : s.engine.inForce <;> simp [hp]

/-- Settles O48, by the rows of the table of R61: a pending switch is the one thing that is owed, so its cancellation
leaves the STOP's own reservation. -/
theorem stopFollowsItsTable : Obligations.StopFollowsItsTable := by
  intro s r hpool _ hpin hq ht hcode hargs run
  have h : s.TakesNow r .stop .stop := ⟨hq, ht, hcode, by simp [hargs, Command.accepts], rfl⟩
  have hexec : exec .stop s = .next ((s.beginTake r).stop r) := h.exec_eq
  have hv : s.validation = none := (State.takeable_some ht).2.1
  have hbegin : s.beginTake r = { s with
      commands := s.commands.tail
      replies := { s.replies with reservations := s.owed ++ [⟨r.tag, 0x31, 9⟩] } } := by
    simp [State.beginTake, h.replyNeed, ReplyQueue.reserve, Command.maxReply, hcode, hq.reservations]
  refine ⟨fun hboot hp => ?_, fun hrun hp => ?_, fun tag hrun hp => ?_, fun x tag hp => ?_⟩
  · rw [hexec, State.stop_of_idle (by simpa using hp), if_pos (by simpa [run] using hboot), h.answered]
    rfl
  · rw [hexec, State.stop_of_idle (by simpa using hp), if_neg (by simpa using hrun), hbegin, State.owed_of_idle hv hp]
    rfl
  · rw [hexec, State.stop_of_stop (tag := tag) (by simpa using hp), h.answered]
    rfl
  · obtain ⟨hw, hget⟩ := State.setPins_table hpool (fun _ a => a) (fun c p => p && !s.engine.pendingRefs.contains c)
    rw [State.owed_of_switch hv hp] at hbegin
    have hcancel := State.cancelSwitch_eq (s := s.beginTake r) (x := x) (tag := tag) (rest := [⟨r.tag, 0x31, 9⟩])
      (by rw [hbegin]; rfl)
    refine ⟨_, hw, fun c => ?_, fun hboot => ?_, fun hrun => ?_⟩
    · rw [hget c fun _ => ⟨rfl, rfl⟩, (hpin.flags c).2, Bool.and_not_self]
    · rw [hexec, State.stop_of_switch (x := x) (tag := tag) (by simpa using hp), if_pos (by simpa [run] using hboot),
        State.reply, State.convert, ReplyQueue.convert_single (n := 9) (by rw [hcancel, hcode]), hcancel, hbegin]
      cases x <;> simp [State.setBankState, State.setBank, State.bank, State.setPins, hcode, Status.code]
    · rw [hexec, State.stop_of_switch (x := x) (tag := tag) (by simpa using hp), if_neg (by simpa using hrun),
        hcancel, hbegin]
      cases x <;> rfl

/-! ### A pending switch or stop at a cycle boundary (R60, R63, R64) -/

theorem State.setBankState_eq (s : State) (x : BankId) (st : BankState) : s.setBankState x st = { s with
    bankA := { s.bankA with state := if x = .a then st else s.bankA.state }
    bankB := { s.bankB with state := if x = .b then st else s.bankB.state } } := by
  cases x <;> rfl

theorem State.retireInForce_eq (s : State) : s.retireInForce = { s with
    bankA := { s.bankA with state := if s.engine.inForce = .bank .a then .editable else s.bankA.state }
    bankB := { s.bankB with state := if s.engine.inForce = .bank .b then .editable else s.bankB.state } } := by
  unfold State.retireInForce
  split
  · simp [*]
  · rename_i y hy
    cases y <;> simp [hy, State.setBankState_eq]

/-- Settles O22: what is owed is the reservation of the pending switch or stop, and the pin flags are membership in the
reference sets, so what they become is too. -/
theorem switchAndStopAreCarriedOut : Obligations.SwitchAndStopAreCarriedOut := by
  intro s tag n hpool _ hpin hq hn leaves
  have hpayload : bytesOf 4 (s.engine.frameCount.getD 0).toNat = bytesOf 4 n.toNat := by rw [hn]; rfl
  refine ⟨fun x g hp hg => ?_, fun hp => ?_⟩
  · obtain ⟨hw, hget⟩ := State.setPins_table hpool
      (fun c a => (a && !s.engine.activeRefs.contains c) || s.engine.pendingRefs.contains c)
      (fun c p => p && !s.engine.pendingRefs.contains c)
    have hreplies := ReplyQueue.convert_single (hq.reservations.trans (State.owed_of_switch (hq.validation_none hp) hp))
    refine ⟨_, hw, fun c => ?_, ?_⟩
    · rw [hget c fun hblank => ?_, (hpin.flags c).1, (hpin.flags c).2, Bool.and_not_self, Bool.and_not_self,
        Bool.false_or]
      have hflag := (hpin.flags c).2
      rw [hblank] at hflag
      exact ⟨hflag.symm, rfl⟩
    · have hcarry : s.carryOut = s.installBank x tag := by simp only [State.carryOut, hp]
      have hgeometry : ∀ u : State, (u.bank x).geometry = (s.bank x).geometry → u.geometryOf (.bank x) = g := by
        intro u hu
        simp [State.geometryOf, hu, hg]
      rw [hcarry]
      simp only [State.installBank, State.retireInForce_eq, State.setBankState_eq, State.setPins, State.convert,
        State.countPayload, hpayload, Command.code, hreplies]
      rw [hgeometry _ (by cases x <;> rfl)]
      rfl
  · obtain ⟨hw, hget⟩ := State.setPins_table hpool (fun c a => a && !s.engine.activeRefs.contains c) (fun _ p => p)
    have hreplies := ReplyQueue.convert_single (hq.reservations.trans (State.owed_of_stop (hq.validation_none hp) hp))
    have hnone : s.engine.pendingRefs = [] := hpin.pendingRefs_eq_nil (.inr (by rw [hp]; rfl))
    refine ⟨_, hw, fun c => ?_, ?_⟩
    · rw [hget c fun _ => ⟨rfl, rfl⟩, (hpin.flags c).1, (hpin.flags c).2, Bool.and_not_self, hnone]
      rfl
    · have hcarry : s.carryOut = s.installBoot tag := by simp only [State.carryOut, hp]
      rw [hcarry]
      simp only [State.installBoot, State.retireInForce_eq, State.setPins, State.convert, State.countPayload, hpayload,
        Command.code, hreplies]
      rfl

/-! ### The pin reset (R66) -/

/-- Settles O4: the values of power-up, with OCLK by the level that LMODE presents. -/
theorem pinResetClearsEveryBlock : Obligations.PinResetClearsEveryBlock := by
  intro lmode s
  refine ⟨s.pinReset lmode, rfl, by simp [State.irdy, State.pinReset], ?_⟩
  cases lmode <;> rfl

end Sys2Proof.Machine

/-! ## What a command can do to the reply queue, the pending switch and the pin flags: every command is a chain of
moves, a take, or a reset. -/

namespace Sys2Proof.Machine

/-! ### What a command leaves alone of pins and replies -/

/-- Every record listed in `u` has the pin flags that it has in `t`, and what is defined in `t` is defined in `u`. -/
structure Table.SamePins (t u : Table Channel) : Prop where
  flags : ∀ e' ∈ u, ∃ e ∈ t, e.1 = e'.1 ∧ e.2.activeRef = e'.2.activeRef ∧ e.2.pendingRef = e'.2.pendingRef
  defined : ∀ c, (Table.get Channel.blank t c).keeping ≠ .undefined → (Table.get .blank u c).keeping ≠ .undefined

namespace Table.SamePins

theorem refl (t : Table Channel) : Table.SamePins t t := ⟨fun e he => ⟨e, he, rfl, rfl, rfl⟩, fun _ h => h⟩

theorem trans {t u v : Table Channel} (h : Table.SamePins t u) (h' : Table.SamePins u v) : Table.SamePins t v := by
  refine ⟨fun e'' he'' => ?_, fun c hc => h'.defined c (h.defined c hc)⟩
  obtain ⟨e', he', hn', ha', hp'⟩ := h'.flags e'' he''
  obtain ⟨e, he, hn, ha, hp⟩ := h.flags e' he'
  exact ⟨e, he, hn.trans hn', ha.trans ha', hp.trans hp'⟩

/-- A defined channel written with its own pin flags, defined still. -/
theorem put {t : Table Channel} {c : Nat} {ch : Channel} (hc : (Table.get Channel.blank t c).keeping ≠ .undefined)
    (hk : ch.keeping ≠ .undefined) (ha : ch.activeRef = (Table.get Channel.blank t c).activeRef)
    (hp : ch.pendingRef = (Table.get Channel.blank t c).pendingRef) : Table.SamePins t (Table.put .blank t c ch) := by
  have hne : ch ≠ .blank := fun e => hk (congrArg Channel.keeping e)
  have hmem : (c, Table.get Channel.blank t c) ∈ t :=
    (Table.get_mem_or t c).resolve_right fun hblank => hc (congrArg Channel.keeping hblank)
  refine ⟨fun e' he' => ?_, fun k hkc => ?_⟩
  · rcases Table.mem_put he' with he | rfl
    · exact ⟨e', he, rfl, rfl, rfl⟩
    · exact ⟨_, hmem, rfl, ha.symm, hp.symm⟩
  · by_cases hck : k = c
    · rw [hck, Table.get_put_self_of_ne t c hne]
      exact hk
    · rwa [Table.get_put_ne hck]

/-- Every record changed in something else than its pin flags and whether it is defined. -/
theorem update {f : Nat → Channel → Channel} (t : Table Channel)
    (hk : ∀ c ch, (f c ch).keeping = .undefined ↔ ch.keeping = .undefined)
    (ha : ∀ c ch, (f c ch).activeRef = ch.activeRef) (hp : ∀ c ch, (f c ch).pendingRef = ch.pendingRef) :
    Table.SamePins t (Table.update f t) := by
  refine ⟨fun e' he' => ?_, fun c hc => ?_⟩
  · obtain ⟨e, he, rfl⟩ := List.mem_map.1 he'
    exact ⟨e, he, rfl, (ha _ _).symm, (hp _ _).symm⟩
  · have hne : Table.get Channel.blank t c ≠ .blank := fun e => hc (congrArg Channel.keeping e)
    rw [Table.get_update_of_get c fun e => absurd e hne, ne_eq, hk]
    exact hc

end Table.SamePins

/-- The format in force, the pending switch, the reference sets, the validation and the pins of the channels stand in
`t` as in `s`. -/
structure State.SamePins (s t : State) : Prop where
  inForce : t.engine.inForce = s.engine.inForce
  pendingSwitch : t.engine.pendingSwitch = s.engine.pendingSwitch
  activeRefs : t.engine.activeRefs = s.engine.activeRefs
  pendingRefs : t.engine.pendingRefs = s.engine.pendingRefs
  validation : t.validation = s.validation
  channels : Table.SamePins s.channels t.channels

namespace State.SamePins

variable {s t u : State}

/-- What concerns neither engine, validation nor channels. -/
theorem of_eq (he : t.engine = s.engine) (hv : t.validation = s.validation) (hc : t.channels = s.channels) :
    s.SamePins t :=
  ⟨by rw [he], by rw [he], by rw [he], by rw [he], hv, hc ▸ .refl _⟩

theorem trans (h : s.SamePins t) (h' : t.SamePins u) : s.SamePins u :=
  ⟨h'.inForce.trans h.inForce, h'.pendingSwitch.trans h.pendingSwitch, h'.activeRefs.trans h.activeRefs,
    h'.pendingRefs.trans h.pendingRefs, h'.validation.trans h.validation, h.channels.trans h'.channels⟩

end State.SamePins

/-- The reply queue too. -/
structure State.SameSwitching (s t : State) : Prop extends s.SamePins t where
  replies : t.replies = s.replies

namespace State.SameSwitching

variable {s t u : State}

/-- What concerns neither engine, validation, channels nor replies. -/
theorem of_eq (he : t.engine = s.engine) (hv : t.validation = s.validation) (hc : t.channels = s.channels)
    (hr : t.replies = s.replies) : s.SameSwitching t := ⟨.of_eq he hv hc, hr⟩

theorem refl (s : State) : s.SameSwitching s := of_eq rfl rfl rfl rfl

theorem trans (h : s.SameSwitching t) (h' : t.SameSwitching u) : s.SameSwitching u :=
  ⟨h.toSamePins.trans h'.toSamePins, h'.replies.trans h.replies⟩

/-- Channels that keep their pins, the pool and the health logic. -/
theorem of_channels {c : Table Channel} {n : Nat} {k : Health} (h : Table.SamePins s.channels c) :
    s.SameSwitching { s with channels := c, freeCells := n, health := k } :=
  ⟨⟨rfl, rfl, rfl, rfl, rfl, h⟩, rfl⟩

end State.SameSwitching

/-! ### The moves -/

/-- One move: what one operation of the part does to reply queue, pending switch, validation and pins, takes and resets
aside. -/
inductive SwitchMove : State → State → Prop
  | same {s t : State} : s.SameSwitching t → SwitchMove s t
  | notice (s : State) (code : Byte) {payload : List Byte} : payload.length ≤ 32 →
      SwitchMove s (s.notice code payload)
  | emit (s : State) : SwitchMove s { s with replies := s.replies.advance }
  | completeFound (s : State) (v : Validation) (f : Finding) : s.validation = some v →
      SwitchMove s (s.completeFound v f)
  | completePassed (s : State) (v : Validation) (refs : List Nat) : s.validation = some v →
      v.progress = .passed refs → SwitchMove s (s.completePassed v refs)
  | refclkEdge (s : State) (order : EdgeOrder) : SwitchMove s (s.refclkEdge order)
  | installBank (s : State) (x : BankId) (tag : Byte) : s.engine.pendingSwitch = some ⟨.bank x, tag⟩ →
      SwitchMove s (s.installBank x tag)
  | installBoot (s : State) (tag : Byte) : s.engine.pendingSwitch = some ⟨.boot, tag⟩ →
      SwitchMove s (s.installBoot tag)

/-- Any number of moves, one after another. -/
abbrev SwitchMoves : State → State → Prop := Relation.ReflTransGen SwitchMove

theorem SwitchMoves.of_same {s t : State} (h : s.SameSwitching t) : SwitchMoves s t := .single (.same h)

/-- What one move keeps, any number of moves keeps. -/
theorem SwitchMoves.keeps {P : State → Prop} (hmove : ∀ s t, SwitchMove s t → P s → P t) {s t : State}
    (h : SwitchMoves s t) (hs : P s) : P t := by
  induction h with
  | refl => exact hs
  | tail _ hstep ih => exact hmove _ _ hstep ih

/-! ### Arrivals (R72 to R78, R98) -/

section Arrivals

variable {s : State} {c : Nat} {ch : Channel}

theorem State.appendSample_same (hc : (s.channel c).keeping ≠ .undefined)
    (ha : ch.activeRef = (s.channel c).activeRef) (hp : ch.pendingRef = (s.channel c).pendingRef)
    (p : QueuedPart) (v : Sample) : s.SameSwitching (s.appendSample c ch p v) := by
  unfold State.appendSample
  split
  · exact .of_channels (.put hc nofun ha hp)
  · exact .of_channels (.put hc nofun ha hp)

theorem State.acceptSample_moves (hc : (s.channel c).keeping ≠ .undefined)
    (ha : ch.activeRef = (s.channel c).activeRef) (hp : ch.pendingRef = (s.channel c).pendingRef)
    (seq : Byte) (v : Sample) : SwitchMoves s (s.acceptSample c ch seq v) := by
  unfold State.acceptSample
  dsimp only
  split
  · exact .refl
  · rename_i p _
    have hset : s.SameSwitching (s.setChannel c { ch with
        lastSeq := some seq
        counters := { ch.counters with received := satAdd ch.counters.received 1 }
        latestCell := v
        keeping := .latest { p with freshness := .fresh, age := 0 } }) := .of_channels (.put hc nofun ha hp)
    split
    · exact (SwitchMoves.of_same hset).tail (.notice _ _ (by simp))
    · exact SwitchMoves.of_same hset
  · refine SwitchMoves.of_same (State.appendSample_same hc ?_ ?_ _ v)
    · exact ha
    · exact hp

/-- One arrival: a sample of an UNDEFINED channel is an orphan (R72, R101). -/
theorem State.arrive_moves (s : State) (c : Nat) (seq : Byte) (v : Sample) : SwitchMoves s (s.arrive c seq v) := by
  unfold State.arrive
  dsimp only
  split
  · exact SwitchMoves.of_same (.of_eq rfl rfl rfl rfl)
  · rename_i hdef
    have hc : (s.channel c).keeping ≠ .undefined := fun h => hdef (.inr h)
    split
    · exact State.acceptSample_moves hc rfl rfl seq v
    · have hreport : SwitchMoves s (s.report .seqFaults 1 .seqFault) := SwitchMoves.of_same (.of_eq rfl rfl rfl rfl)
      refine hreport.trans (State.acceptSample_moves (s := s.report .seqFaults 1 .seqFault) hc ?_ ?_ seq v)
      · rfl
      · rfl
    · exact SwitchMoves.of_same (.of_channels (.put hc hc rfl rfl))
    · exact SwitchMoves.of_same (.of_channels (.put hc hc rfl rfl))

end Arrivals

theorem State.arriveAll_moves (c : Nat) (vs : List Sample) (s : State) (seq : Byte) :
    SwitchMoves s (s.arriveAll c seq vs) := by
  induction vs generalizing s seq with
  | nil => exact .refl
  | cons v vs ih => exact (s.arrive_moves c seq v).trans (ih _ _)

theorem State.dispatch_moves (s : State) (m : List Byte) (k : MessageKind) : SwitchMoves s (s.dispatch m k) := by
  cases k with
  | sample => exact State.arriveAll_moves _ _ s _
  | block => exact State.arriveAll_moves _ _ s _
  | command =>
    simp only [State.dispatch, State.pushCommand]
    split <;> exact SwitchMoves.of_same (.of_eq rfl rfl rfl rfl)

theorem State.completeMessage_moves (s : State) : SwitchMoves s s.completeMessage := by
  unfold State.completeMessage
  dsimp only
  split
  · exact SwitchMoves.of_same (.of_eq rfl rfl rfl rfl)
  · have hidle : SwitchMoves s { s with intake := .idle } := SwitchMoves.of_same (.of_eq rfl rfl rfl rfl)
    split
    · exact hidle.trans (State.dispatch_moves _ _ _)
    · exact hidle

/-! ### Strobes and fetches (R28 to R41, R46, R79) -/

theorem State.capture_same (s : State) (c : Nat) : s.SameSwitching (s.capture c).1 := by
  cases hk : (s.channel c).keeping with
  | undefined =>
    have hnone : (s.capture c).1 = s := by simp [State.capture, hk]
    rw [hnone]
    exact .refl s
  | latest p =>
    have hc : (s.channel c).keeping ≠ .undefined := by simp [hk]
    by_cases hf : p.freshness = .fresh
    · rw [State.capture_fresh hk hf]
      exact .of_channels (.put hc hc rfl rfl)
    · rw [State.capture_notFresh hk hf]
      exact .of_channels (.put hc hc rfl rfl)
  | queued p =>
    have hc : (s.channel c).keeping ≠ .undefined := by simp [hk]
    cases hq : p.queue with
    | nil =>
      rw [State.capture_underrun hk hq]
      exact .of_channels (.put hc hc rfl rfl)
    | cons oldest rest =>
      rw [State.capture_queued hk hq]
      exact .of_channels (.put hc nofun rfl rfl)

theorem State.packRun_same (ps : List Pick) (s : State) (i : Nat) (done : List (Nat × Sample)) :
    s.SameSwitching (s.packRun i done ps).1 := by
  induction ps generalizing s i done with
  | nil => exact .refl s
  | cons p ps ih =>
    rcases p with _ | ⟨c, b, _ | _⟩ | _ | _
    case channelBit.capture =>
      simp only [State.packRun]
      split
      · exact ih s (i + 1) done
      · exact (s.capture_same c).trans (ih _ _ _)
    all_goals exact ih s (i + 1) done

/-- The content of a word: captures, the health word's clearing, or the emission of a byte of the head record. -/
theorem State.content_switchMove (s : State) (p : Nat) (d : Slot) : SwitchMove s (s.content p d).1 := by
  rcases d with _ | _ | _ | _ | _ | _ | _ | _ | ⟨c, _ | _, sg, sh, w⟩ | ⟨a, k⟩ | _
  case reply => exact .emit s
  case channel.capture => exact .same (s.capture_same c)
  case packed => exact .same (State.packRun_same _ s 0 [])
  all_goals exact .same (.of_eq rfl rfl rfl rfl)

theorem State.notices_moves (code : Byte) (cs : List Nat) (s : State) :
    SwitchMoves s (cs.foldl (fun s c => s.notice code (bytesOf 2 c)) s) := by
  induction cs generalizing s with
  | nil => exact .refl
  | cons c cs ih => exact .head (.notice s code (by simp)) (ih _)

theorem Channel.tick_flags (ch : Channel) :
    ch.tick.activeRef = ch.activeRef ∧ ch.tick.pendingRef = ch.pendingRef := by
  cases hk : ch.keeping <;> simp [Channel.tick, hk]

theorem State.tick_moves (s : State) : SwitchMoves s s.tick := by
  have hupdate := Table.SamePins.update (f := fun _ ch => ch.tick) s.channels (fun _ => Channel.tick_keeping_undefined)
    (fun _ ch => ch.tick_flags.1) (fun _ ch => ch.tick_flags.2)
  exact .head (.same (.of_channels hupdate)) (State.notices_moves _ _ _)

theorem State.carryOut_switchMoves (s : State) : SwitchMoves s s.carryOut := by
  unfold State.carryOut
  split
  · exact .refl
  · exact .single (.installBank s _ _ ‹_›)
  · exact .single (.installBoot s _ ‹_›)

theorem State.frameBegun_same (s : State) : s.SameSwitching s.frameBegun := by
  rw [s.frameBegun_eq]
  exact ⟨⟨rfl, rfl, rfl, rfl, rfl, .refl _⟩, rfl⟩

theorem State.atWord_switchMoves (s : State) : SwitchMoves s s.atWord := by
  unfold State.atWord
  split
  · have htick := (SwitchMoves.of_same s.frameBegun_same).trans (State.tick_moves _)
    rw [s.frameStart_eq]
    split
    · exact htick.trans (State.carryOut_switchMoves _)
    · exact htick
  · exact .refl

theorem State.fetch_switchMoves (s : State) : SwitchMoves s s.fetch.endStrobe := by
  rw [s.fetch_eq]
  exact .tail (.tail s.atWord_switchMoves (State.content_switchMove _ _ _))
    (.same ⟨⟨rfl, rfl, rfl, rfl, rfl, .refl _⟩, rfl⟩)

theorem State.strobe_switchMoves (s : State) : SwitchMoves s s.strobe := by
  unfold State.strobe
  split
  · split
    · exact s.fetch_switchMoves
    · exact SwitchMoves.of_same (.of_eq rfl rfl rfl rfl)
  · exact s.fetch_switchMoves

theorem State.completeValidation_switchMoves (s : State) : SwitchMoves s s.completeValidation := by
  unfold State.completeValidation
  split
  · rename_i v hv
    split
    · exact .single (.completeFound s v _ hv)
    · exact .single (.completePassed s v _ hv ‹_›)
    · exact .refl
    · exact .refl
  · exact .refl

theorem State.advanceTime_same (s : State) : s.SameSwitching s.advanceTime := .of_eq rfl rfl rfl rfl

theorem State.finishEdge_switchMoves (s : State) : SwitchMoves s s.finishEdge := by
  have hdone := s.completeValidation_switchMoves.tail (.same (State.advanceTime_same _))
  unfold State.finishEdge
  dsimp only
  split
  · exact (hdone.trans (State.strobe_switchMoves _)).tail (.same (State.advanceTime_same _))
  · exact hdone.tail (.same (State.advanceTime_same _))

end Sys2Proof.Machine

/-! ## Every command as moves, a take or a reset of reply queue, pending switch and pins (R150, R151). -/

namespace Sys2Proof.Machine

/-! ### Lengths of payloads (R153) -/

theorem Command.five_le_maxReply (c : Command) : 5 ≤ c.maxReply := by cases c <;> decide

@[simp] theorem length_encodeSlot (d : Slot) : (encodeSlot d).length = 6 := by cases d <;> simp [encodeSlot]

@[simp] theorem length_encodePick (p : Pick) : (encodePick p).length = 3 := by cases p <;> simp [encodePick]

theorem length_flatMap_encodeSlot (ds : List Slot) : (ds.flatMap encodeSlot).length = 6 * ds.length := by
  induction ds with
  | nil => rfl
  | cons d ds ih => simp only [List.flatMap_cons, List.length_append, length_encodeSlot, ih, List.length_cons]; omega

theorem length_flatMap_encodePick (ps : List Pick) : (ps.flatMap encodePick).length = 3 * ps.length := by
  induction ps with
  | nil => rfl
  | cons p ps ih => simp only [List.flatMap_cons, List.length_append, length_encodePick, ih, List.length_cons]; omega

theorem length_pingPayload (s : State) : s.pingPayload.length = 8 := by simp [State.pingPayload]

theorem length_channelPayload (ch : Channel) : ch.payload.length = 27 := by
  simp [Channel.payload, ChannelCounters.inOrder]

theorem length_countersPayload (d : DeviceCounters) : d.payload.length = 24 := by
  simp [DeviceCounters.payload, DeviceCounters.inOrder]

theorem length_geometryPayload (b : Bank) : b.geometryPayload.length = 14 := by
  unfold Bank.geometryPayload
  split <;> simp

/-- READ_BANK reports at most 5 descriptors, 4 entries or 10 picks (R15). -/
theorem length_readPayload {b : Bank} {args payload : List Byte} (h : b.readPayload args = some payload) :
    payload.length ≤ 32 := by
  unfold Bank.readPayload at h
  dsimp only at h
  split at h
  · cases h
    rw [length_geometryPayload]
    omega
  · split at h <;> cases h
    simp only [List.length_append, length_bytesOf, length_flatMap_encodeSlot, Table.length_run]
    omega
  · split at h <;> cases h
    simp only [List.length_append, List.length_cons, List.length_nil, length_flatMap_encodeSlot, List.length_take]
    omega
  · split at h <;> cases h
    simp only [List.length_append, length_bytesOf, length_flatMap_encodePick, Table.length_run]
    omega
  · cases h

/-! ### The takes (R150, R151) -/

/-- What the take of record `r` leaves: an answer, after work that leaves switching and pins alone or has replaced the
record of a channel that is UNDEFINED or not pinned; a validation that begins; or, at STOP, a stop made pending, with
or without the cancellation of a pending switch. -/
inductive State.Taken (s : State) (r : CmdRecord) : State → Prop
  | answered {u : State} {n : Nat} (status : Byte) {payload : List Byte} : replyNeed r = some n →
      5 + payload.length ≤ n → (s.beginTake r).SameSwitching u → s.Taken r (u.convert r.tag r.code status payload)
  | replaced {n : Nat} (status : Byte) (c : Nat) {ch : Channel} (cells : Nat) : replyNeed r = some n → 5 ≤ n →
      ((s.channel c).keeping = .undefined ∨ (s.channel c).pinned = false) →
      ch.activeRef = false → ch.pendingRef = false →
      s.Taken r (({ (s.beginTake r).setChannel c ch with freeCells := cells } : State).convert r.tag r.code status [])
  | validating (x : BankId) : r.code = 0x30 → s.engine.pendingSwitch = none →
      s.Taken r { (s.beginTake r).setBankState x .validating with validation := some ⟨x, r.tag, .test .geometry⟩ }
  | stopping : r.code = 0x31 → s.engine.pendingSwitch = none → s.engine.inForce ≠ .boot →
      s.Taken r ((s.beginTake r).makeStopPending r.tag)
  | cancelled {x : BankId} {tag : Byte} : r.code = 0x31 → s.engine.pendingSwitch = some ⟨.bank x, tag⟩ →
      s.Taken r (((s.beginTake r).cancelSwitch x tag).reply r .ok [])
  | cancelledStopping {x : BankId} {tag : Byte} : r.code = 0x31 → s.engine.pendingSwitch = some ⟨.bank x, tag⟩ →
      s.engine.inForce ≠ .boot → s.Taken r (((s.beginTake r).cancelSwitch x tag).makeStopPending r.tag)

section Taken

variable {s u : State} {r : CmdRecord} {n : Nat}

theorem State.Taken.reply (hn : replyNeed r = some n) (st : Status) {payload : List Byte}
    (hlen : 5 + payload.length ≤ n) (hu : (s.beginTake r).SameSwitching u) : s.Taken r (u.reply r st payload) :=
  .answered st.code hn hlen hu

theorem State.ping_taken (hn : replyNeed r = some 13) : s.Taken r ((s.beginTake r).ping r) :=
  .reply hn .ok (by rw [length_pingPayload]) (.refl _)

theorem State.edit_taken (hn : replyNeed r = some 5) (change : Bank → Option Bank) :
    s.Taken r ((s.beginTake r).edit r change) := by
  unfold State.edit
  split
  · exact .reply hn .badArgument (by simp) (.refl _)
  · rename_i x _
    split
    · exact .reply hn .bankActive (by simp) (.refl _)
    · exact .reply hn .bankPending (by simp) (.refl _)
    · exact .answered Config.unmetStatus hn (by simp) (.refl _)
    · split
      · exact .reply hn .badArgument (by simp) (.refl _)
      · exact .reply hn .ok (by simp) (.of_eq (by simp) (by simp) (by simp) (by simp))

theorem State.readBank_taken (hn : replyNeed r = some 37) : s.Taken r ((s.beginTake r).readBank r) := by
  unfold State.readBank
  split
  · exact .reply hn .badArgument (by simp) (.refl _)
  · split
    · exact .reply hn .badArgument (by simp) (.refl _)
    · rename_i hpayload
      exact .reply hn .ok (by have := length_readPayload hpayload; omega) (.refl _)

theorem State.readChannel_taken (hn : replyNeed r = some 32) : s.Taken r ((s.beginTake r).readChannel r) := by
  unfold State.readChannel
  dsimp only
  split
  · exact .reply hn .badArgument (by simp) (.refl _)
  split
  · exact .reply hn .notDefined (by simp) (.refl _)
  · exact .reply hn .ok (by rw [length_channelPayload]) (.refl _)

theorem State.readCounters_taken (hn : replyNeed r = some 29) : s.Taken r ((s.beginTake r).readCounters r) := by
  unfold State.readCounters
  dsimp only
  split
  · exact .reply hn .ok (by rw [length_countersPayload]) (.refl _)
  split
  · exact .reply hn .ok (by rw [length_countersPayload]) (.of_eq rfl rfl rfl rfl)
  · exact .reply hn .badArgument (by simp) (.refl _)

theorem State.clearCounters_taken (hn : replyNeed r = some 5) : s.Taken r ((s.beginTake r).clearCounters r) := by
  unfold State.clearCounters
  dsimp only
  split
  · exact .reply hn .ok (by simp) (.of_eq rfl rfl rfl rfl)
  · split
    · exact .reply hn .badArgument (by simp) (.refl _)
    split
    · exact .reply hn .notDefined (by simp) (.refl _)
    · rename_i hdef
      exact .reply hn .ok (by simp) (.of_channels (.put hdef hdef rfl rfl))
  · exact .reply hn .ok (by simp)
      (.of_channels (.update _ (fun _ _ => .rfl) (fun _ _ => rfl) (fun _ _ => rfl)))
  · exact .reply hn .badArgument (by simp) (.refl _)

/-- A same-kind redefinition of a QUEUED channel keeps its pins (R86, R104). -/
theorem State.redefineQueued_same {c : Nat} (hc : (u.channel c).keeping ≠ .undefined) (d : Definition)
    (old new : QueuedPart) : u.SameSwitching (u.redefineQueued c (u.channel c) d old new) := by
  unfold State.redefineQueued
  dsimp only
  split
  · exact .of_channels (.put hc nofun rfl rfl)
  · exact .of_channels (.put hc nofun rfl rfl)

theorem State.defineChannel_taken (hn : replyNeed r = some 5) : s.Taken r ((s.beginTake r).defineChannel r) := by
  unfold State.defineChannel
  dsimp only
  split
  · exact .reply hn .badArgument (by simp) (.refl _)
  split
  · exact .reply hn .badArgument (by simp) (.refl _)
  rename_i d _
  have hpinned : ∀ {c : Nat}, ¬ ((s.beginTake r).channel c).pinned = true → (s.channel c).pinned = false := by
    intro c hp
    simpa using hp
  split
  · rename_i hk
    exact .replaced _ _ _ hn (by omega) (.inl (by simpa using hk)) rfl rfl
  · rename_i hk _
    exact .reply hn .ok (by simp) (.of_channels (.put (ne_of_eq_of_ne hk nofun) nofun rfl rfl))
  · rename_i hk _
    exact .reply hn .ok (by simp) (State.redefineQueued_same (ne_of_eq_of_ne hk nofun) d _ _)
  all_goals
    split
    · exact .reply hn .inUse (by simp) (.refl _)
    · exact .replaced _ _ _ hn (by omega) (.inr (hpinned ‹_›)) rfl rfl

theorem State.undefineChannel_taken (hn : replyNeed r = some 5) :
    s.Taken r ((s.beginTake r).undefineChannel r) := by
  unfold State.undefineChannel
  dsimp only
  split
  · exact .reply hn .badArgument (by simp) (.refl _)
  split
  · exact .reply hn .notDefined (by simp) (.refl _)
  split
  · exact .reply hn .inUse (by simp) (.refl _)
  · rename_i hp
    exact .replaced _ _ _ hn (by omega) (.inr (by simpa using hp)) rfl rfl

theorem State.switch_taken (hcode : r.code = 0x30) (hn : replyNeed r = some 9) :
    s.Taken r ((s.beginTake r).switch r) := by
  cases hx : bankOf (byteAt r.args 0) with
  | none =>
    rw [State.switch_noBank hx]
    exact .reply hn .badArgument (by simp) (.refl _)
  | some x =>
    rw [State.switch_bank hx]
    split
    · exact .reply hn .busy (by simp) (.refl _)
    · rename_i hfree
      split
      · exact .reply hn .bankActive (by simp) (.refl _)
      · simp only [State.beginTake_engine, ne_eq, not_or, not_not] at hfree
        exact .validating x hcode hfree.1

theorem State.stop_taken (hcode : r.code = 0x31) (hn : replyNeed r = some 9) :
    s.Taken r ((s.beginTake r).stop r) := by
  cases hp : s.engine.pendingSwitch with
  | none =>
    rw [State.stop_of_idle (by simpa using hp), State.beginTake_engine]
    split
    · exact .reply hn .ok (by simp) (.refl _)
    · exact .stopping hcode hp ‹_›
  | some w =>
    obtain ⟨_ | x, tag⟩ := w
    · rw [State.stop_of_stop (tag := tag) (by simpa using hp)]
      exact .reply hn .busy (by simp) (.refl _)
    · rw [State.stop_of_switch (x := x) (tag := tag) (by simpa using hp), State.beginTake_engine]
      split
      · exact .cancelled hcode hp
      · exact .cancelledStopping hcode hp ‹_›

/-- The owner blocks of the catalogue. -/
theorem Command.owner_taken {c : Command} (hc : r.code = c.code) (hreset : c ≠ .resetPart) :
    s.Taken r (c.owner r (s.beginTake r)) := by
  have hn := replyNeed_of_code hc hreset
  cases c with
  | resetPart => exact absurd rfl hreset
  | ping => exact State.ping_taken hn
  | defineChannel => exact State.defineChannel_taken hn
  | undefineChannel => exact State.undefineChannel_taken hn
  | readChannel => exact State.readChannel_taken hn
  | setFrame | writeSlots | writeRotation | writePicks | clearBank =>
    rw [Command.owner_of_edits rfl]
    exact State.edit_taken hn _
  | readBank => exact State.readBank_taken hn
  | switch => exact State.switch_taken hc hn
  | stop => exact State.stop_taken hc hn
  | setTimebase | setTime => exact .reply hn .ok (by simp [Command.maxReply]) (.of_eq rfl rfl rfl rfl)
  | readCounters => exact State.readCounters_taken hn
  | clearCounters => exact State.clearCounters_taken hn

end Taken

/-- A record whose code is not in the catalogue reserves 5 bytes (R150). -/
theorem replyNeed_of_unknown {r : CmdRecord} (h : commandOf r.code = none) : replyNeed r = some 5 := by
  have hreset : resetOption r = none := by
    refine if_neg fun hcode => ?_
    rw [hcode, commandOf_code] at h
    cases h
  simp [replyNeed, hreset, h]

/-- A RESET_PART that is refused reserves 5 bytes (R150). -/
theorem replyNeed_of_refused {r : CmdRecord} (h : commandOf r.code = some .resetPart) (ho : resetOption r = none) :
    replyNeed r = some 5 := by
  simp [replyNeed, ho, h, Command.maxReply]

/-! ### What one command can do to reply queue, pending switch and pins -/

/-- What a command can do to reply queue, pending switch, validation and pins. -/
inductive SwitchStep (s t : State) : Prop
  | moves : SwitchMoves s t → SwitchStep s t
  | taken (r : CmdRecord) : s.takeable = some r → s.Taken r t → SwitchStep s t
  | assert (lmode : Level) : t = s.pinReset lmode → SwitchStep s t
  | restart (u : State) : u.channels = s.channels → t = u.restart → SwitchStep s t
  | full (u : State) : t = u.fullReset → SwitchStep s t

theorem SwitchStep.of_same {s t : State} (h : s.SameSwitching t) : SwitchStep s t := .moves (SwitchMoves.of_same h)

theorem exec_row_switchStep {c : Command} {i : Instr} (hrow : c.row = some i) {s t : State}
    (h : exec i s = .next t) : SwitchStep s t := by
  rw [exec_row hrow, State.takeCommand] at h
  rcases s.take_cases (fun r => commandOf r.code == some c) (fun r u =>
      if c.accepts r.args.length then c.owner r u else u.reply r .badLength []) with ⟨r, ht, hw, e⟩ | e <;>
    cases e.symm.trans h
  · have hc : r.code = c.code := commandOf_eq_some.1 (by simpa using hw)
    have hreset : c ≠ .resetPart := by
      rintro rfl
      cases hrow
    refine .taken r ht ?_
    split
    · exact Command.owner_taken hc hreset
    · exact .reply (replyNeed_of_code hc hreset) .badLength c.five_le_maxReply (.refl _)
  · exact .of_same (.refl s)

theorem State.ready_switchMove (s : State) (cause : ResetCause) : SwitchMove s (s.ready cause) := by
  refine .notice s noticeReady ?_
  simp [State.readyPayload]

theorem State.releaseReset_switchMoves (s : State) (lmode adr1 adr0 : Level) :
    SwitchMoves s (s.releaseReset lmode adr1 adr0) := by
  unfold State.releaseReset
  refine .tail ?_ (State.ready_switchMove _ .pin)
  exact SwitchMoves.of_same (.of_eq rfl rfl rfl rfl)

/-- Every command of the table does one of these. -/
theorem exec_switchStep {i : Instr} {s t : State} (h : exec i s = .next t) : SwitchStep s t := by
  cases hrow : catalogued i with
  | some c => exact exec_row_switchStep (row_of_catalogued hrow) h
  | none =>
  cases i with
  | unknownCommand =>
    rcases s.take_cases (fun r => commandOf r.code == none) (fun r s => s.reply r .unknownCommand [])
      with ⟨r, ht, hw, e⟩ | e <;> cases e.symm.trans h
    · exact .taken r ht (.reply (replyNeed_of_unknown (by simpa using hw)) .unknownCommand (by simp) (.refl _))
    · exact .of_same (.refl s)
  | resetPartRefused =>
    rcases s.take_cases (fun r => commandOf r.code == some .resetPart && resetOption r == none) (fun r s =>
      if Command.resetPart.accepts r.args.length then s.reply r .badArgument [] else s.reply r .badLength [])
      with ⟨r, ht, hw, e⟩ | e <;> cases e.symm.trans h
    · simp only [Bool.and_eq_true, beq_iff_eq] at hw
      have hn := replyNeed_of_refused hw.1 hw.2
      refine .taken r ht ?_
      split
      · exact .reply hn .badArgument (by simp) (.refl _)
      · exact .reply hn .badLength (by simp) (.refl _)
    · exact .of_same (.refl s)
  | resetPartRestart =>
    rcases s.take_cases (fun r => resetOption r == some .restart) (fun _ s => s.restart)
      with ⟨r, -, -, e⟩ | e <;> cases e.symm.trans h
    · exact .restart _ (s.beginTake_channels r) rfl
    · exact .of_same (.refl s)
  | resetPartFull =>
    rcases s.take_cases (fun r => resetOption r == some .full) (fun _ s => s.fullReset)
      with ⟨r, -, -, e⟩ | e <;> cases e.symm.trans h
    · exact .full _ rfl
    · exact .of_same (.refl s)
  | pinResetAssert lmode =>
    cases h
    exact .assert lmode rfl
  | pinResetRelease lmode adr1 adr0 =>
    simp only [exec, execPinResetRelease] at h
    split at h <;> cases h
    · exact .moves (s.releaseReset_switchMoves lmode adr1 adr0)
    · exact .of_same (.refl s)
  | messageCompletion =>
    simp only [exec, execMessageCompletion] at h
    split at h <;> cases h
    · have hrise : SwitchMoves s { s with pins := { s.pins with ifrm := .high } } :=
        SwitchMoves.of_same (.of_eq rfl rfl rfl rfl)
      exact .moves (hrise.trans (State.completeMessage_moves _))
    · exact .of_same (.of_eq rfl rfl rfl rfl)
  | ifrmFall =>
    simp only [exec, execIfrmFall] at h
    split at h
    · cases h
      exact .of_same (.refl s)
    · split at h <;> cases h <;> exact .of_same (.of_eq rfl rfl rfl rfl)
  | iclkRisingEdge idat =>
    simp only [exec, execIclkRisingEdge] at h
    split at h <;> cases h <;> exact .of_same (.of_eq rfl rfl rfl rfl)
  | wordFetch =>
    simp only [exec, execWordFetch] at h
    split at h <;> cases h
    · exact .moves s.fetch_switchMoves
    · exact .of_same (.refl s)
  | bitStrobe =>
    simp only [exec, execBitStrobe] at h
    split at h <;> cases h
    · exact .moves s.strobe_switchMoves
    · exact .of_same (.refl s)
  | timeCounterAdvance =>
    cases h
    exact .of_same s.advanceTime_same
  | validationCompletion =>
    cases h
    exact .moves s.completeValidation_switchMoves
  | refclkRisingEdge order =>
    simp only [exec, execRefclkRisingEdge] at h
    split at h <;> cases h
    · exact .moves (s.finishEdge_switchMoves.tail (.refclkEdge _ order))
    · exact .of_same (.refl s)
  | _ => cases hrow

end Sys2Proof.Machine

/-! ## Every step keeps the reply queue in its bounds, and owes what the pending switch or validation asks (R65, R124,
R128). -/

namespace Sys2Proof.Machine

/-! ### Moves -/

/-- The claims of the queue follow it where validation and pending switch stand. -/
theorem State.ReplyInv.of_queue {s t : State} (hs : s.ReplyInv) (hv : t.validation = s.validation)
    (hp : t.engine.pendingSwitch = s.engine.pendingSwitch)
    (hres : t.replies.reservations = s.replies.reservations) (hq : t.replies.Ok) : t.ReplyInv := by
  have howed : t.owed = s.owed := by simp only [State.owed, hv, hp]
  exact (State.replyInv_iff t).2 ⟨by rw [hres, hs.reservations, howed], by rw [hv, hp]; exact hs.free, hq⟩

theorem ReplyQueue.advance_reservations (q : ReplyQueue) : q.advance.reservations = q.reservations := by
  unfold ReplyQueue.advance
  split
  · rfl
  · split <;> rfl

theorem State.notice_replyInv {s : State} (hs : s.ReplyInv) (code : Byte) {payload : List Byte}
    (hlen : payload.length ≤ 32) : (s.notice code payload).ReplyInv := by
  unfold State.notice
  split
  · rename_i hfree
    have hrecord := recordOk_replyRecord 0 code Status.notice.code hlen
    exact hs.of_queue rfl rfl rfl (hs.ok.append hrecord hfree.1 (by simpa using hfree.2))
  · exact hs

/-- The one reservation that is owed becomes a record of at most 9 bytes, and nothing is owed any more (R58, R60,
R63). -/
theorem State.replyInv_of_settled {s t : State} (hs : s.ReplyInv) {tag code : Byte} (howed : s.owed = [⟨tag, code, 9⟩])
    (status : Byte) {payload : List Byte} (hlen : payload.length ≤ 4)
    (hq : t.replies = (s.replies.release tag code).append (replyRecord tag code status payload))
    (hv : t.validation = none) (hp : t.engine.pendingSwitch = none) : t.ReplyInv := by
  have hres : s.replies.reservations = [⟨tag, code, 9⟩] := hs.reservations.trans howed
  refine (State.replyInv_iff t).2 ⟨?_, fun _ => hp, ?_⟩
  · rw [hq, ReplyQueue.convert_single hres, State.owed_of_idle hv hp]
  · rw [hq]
    refine hs.ok.convert status ⟨⟨tag, code, 9⟩, by simp [hres], rfl, rfl⟩ ?_ (by omega)
    intro e he _ _
    rw [hres, List.mem_singleton] at he
    rw [he]
    dsimp only
    omega

theorem length_findingPayload (f : Finding) : f.payload.length = 4 := by simp [Finding.payload]

theorem State.completeFound_replyInv {s : State} {v : Validation} (f : Finding) (hs : s.ReplyInv)
    (hv : s.validation = some v) : (s.completeFound v f).ReplyInv := by
  have hp : s.engine.pendingSwitch = none := hs.free (by rw [hv]; rfl)
  refine State.replyInv_of_settled hs (State.owed_of_validation hv) Status.invalidFormat.code
    (length_findingPayload f).le ?_ rfl ?_
  · simp [State.completeFound, State.convert, Command.code]
  · simpa [State.completeFound] using hp

theorem State.completePassed_replyInv {s : State} {v : Validation} (refs : List Nat) (hs : s.ReplyInv)
    (hv : s.validation = some v) : (s.completePassed v refs).ReplyInv := by
  have hsame : (s.completePassed v refs).replies = s.replies := by simp [State.completePassed]
  refine (State.replyInv_iff _).2 ⟨?_, nofun, hsame ▸ hs.ok⟩
  rw [hsame, hs.reservations, State.owed_of_validation hv]
  rfl

theorem State.refclkEdge_replyInv {s : State} (order : EdgeOrder) (hs : s.ReplyInv) :
    (s.refclkEdge order).ReplyInv := by
  have hsame : (s.refclkEdge order).replies = s.replies := by simp [State.refclkEdge, s.validatePeriod_eq]
  have howed : (s.refclkEdge order).owed = s.owed := by
    simp only [State.owed, State.refclkEdge_validation, State.refclkEdge_engine]
    cases s.validation <;> rfl
  refine (State.replyInv_iff _).2 ⟨by rw [hsame, howed, hs.reservations], ?_, hsame ▸ hs.ok⟩
  rw [State.refclkEdge_validation, State.refclkEdge_engine, Option.isSome_map]
  exact hs.free

theorem length_countPayload (s : State) : s.countPayload.length = 4 := by simp [State.countPayload]

theorem State.installBank_replyInv {s : State} {x : BankId} {tag : Byte} (hs : s.ReplyInv)
    (hp : s.engine.pendingSwitch = some ⟨.bank x, tag⟩) : (s.installBank x tag).ReplyInv := by
  have hv : s.validation = none := hs.validation_none hp
  refine State.replyInv_of_settled hs (State.owed_of_switch hv hp) Status.switched.code
    (payload := s.countPayload) (length_countPayload s).le ?_ ?_ rfl
  · rw [State.installBank, State.retireInForce_eq]
    simp [State.convert, State.countPayload, Command.code]
  · simpa [State.installBank, State.retireInForce_validation] using hv

theorem State.installBoot_replyInv {s : State} {tag : Byte} (hs : s.ReplyInv)
    (hp : s.engine.pendingSwitch = some ⟨.boot, tag⟩) : (s.installBoot tag).ReplyInv := by
  have hv : s.validation = none := hs.validation_none hp
  refine State.replyInv_of_settled hs (State.owed_of_stop hv hp) Status.stopped.code
    (payload := s.countPayload) (length_countPayload s).le ?_ ?_ rfl
  · rw [State.installBoot, State.retireInForce_eq]
    simp [State.convert, State.countPayload, Command.code]
  · simpa [State.installBoot, State.retireInForce_validation] using hv

/-- Every move keeps the reply queue. -/
theorem SwitchMove.replyInv {s t : State} (h : SwitchMove s t) (hs : s.ReplyInv) : t.ReplyInv := by
  cases h with
  | same h => exact hs.of_queue h.validation h.pendingSwitch (by rw [h.replies]) (h.replies ▸ hs.ok)
  | notice code hlen => exact State.notice_replyInv hs code hlen
  | emit => exact hs.of_queue rfl rfl s.replies.advance_reservations (hs.ok.advance)
  | completeFound v f hv => exact State.completeFound_replyInv f hs hv
  | completePassed v refs hv _ => exact State.completePassed_replyInv refs hs hv
  | refclkEdge order => exact State.refclkEdge_replyInv order hs
  | installBank x tag hp => exact State.installBank_replyInv hs hp
  | installBoot tag hp => exact State.installBoot_replyInv hs hp

/-! ### Takes (R65, R125, R126) -/

section Takes

variable {s : State} {r : CmdRecord} {n : Nat}

/-- The space that a take reserves was free (R150). -/
theorem State.beginTake_replies (hn : replyNeed r = some n) :
    (s.beginTake r).replies = s.replies.reserve ⟨r.tag, r.code, n⟩ := by
  simp [State.beginTake, hn]

theorem State.beginTake_ok (hs : s.ReplyInv) (ht : s.takeable = some r) (hn : replyNeed r = some n) :
    (s.beginTake r).replies.Ok := by
  obtain ⟨-, -, -, hfree⟩ := State.takeable_some ht
  rw [State.beginTake_replies hn]
  exact hs.ok.reserve (hfree n hn).1 (hfree n hn).2

/-- An answer takes the place of the reservation that its take made (R126). -/
theorem State.convert_replyInv {u : State} (hs : s.ReplyInv) (ht : s.takeable = some r) (hn : replyNeed r = some n)
    (status : Byte) {payload : List Byte} (hlen : 5 + payload.length ≤ n) (hbound : n ≤ 37)
    (hq : u.replies = (s.beginTake r).replies) (hv : u.validation = s.validation)
    (hp : u.engine.pendingSwitch = s.engine.pendingSwitch) :
    (u.convert r.tag r.code status payload).ReplyInv := by
  obtain ⟨-, -, -, hfree⟩ := State.takeable_some ht
  have hanswer : (u.convert r.tag r.code status payload).replies
      = s.replies.append (replyRecord r.tag r.code status payload) := by
    simp only [State.convert, hq, State.release_beginTake hs ht hn]
  refine hs.of_queue hv hp (by rw [hanswer]; rfl) ?_
  rw [hanswer]
  refine hs.ok.append (recordOk_replyRecord _ _ _ (by omega)) (hfree n hn).1 ?_
  rw [length_replyRecord]
  exact hlen.trans (hfree n hn).2

/-- The largest reply has 37 bytes (R128, R153). -/
theorem replyNeed_le (hn : replyNeed r = some n) : n ≤ 37 := by
  unfold replyNeed at hn
  split at hn
  · cases hn
  split at hn <;> cases hn
  · rename_i c _
    cases c <;> decide
  · decide

/-- With nothing pending the reservation of a SWITCH or STOP is the only one, and it is owed from its take on. -/
theorem State.kept_replyInv {t : State} (hs : s.ReplyInv) (ht : s.takeable = some r) (hn : replyNeed r = some n)
    (hp : s.engine.pendingSwitch = none) (hq : t.replies = (s.beginTake r).replies)
    (howed : t.owed = [⟨r.tag, r.code, n⟩]) (hfree : t.validation.isSome = true → t.engine.pendingSwitch = none) :
    t.ReplyInv := by
  refine (State.replyInv_iff t).2 ⟨?_, hfree, hq ▸ State.beginTake_ok hs ht hn⟩
  rw [hq, State.beginTake_replies hn, howed, ReplyQueue.reserve, hs.reservations,
    State.owed_of_idle (State.takeable_some ht).2.1 hp]
  rfl

/-- The cancellation at a STOP leaves the STOP's own reservation (R62). -/
theorem State.cancelSwitch_replies {x : BankId} {tag : Byte} (hs : s.ReplyInv) (ht : s.takeable = some r)
    (hcode : r.code = 0x31) (hp : s.engine.pendingSwitch = some ⟨.bank x, tag⟩) :
    ((s.beginTake r).cancelSwitch x tag).replies.reservations = [⟨r.tag, r.code, 9⟩]
    ∧ ((s.beginTake r).cancelSwitch x tag).replies.Ok := by
  have hn : replyNeed r = some 9 := replyNeed_of_code (c := .stop) hcode (by decide)
  have hres : (s.beginTake r).replies.reservations = [⟨tag, 0x30, 9⟩, ⟨r.tag, r.code, 9⟩] := by
    rw [State.beginTake_replies hn, ReplyQueue.reserve, hs.reservations,
      State.owed_of_switch (State.takeable_some ht).2.1 hp]
    rfl
  have hcancel : ((s.beginTake r).cancelSwitch x tag).replies
      = ((s.beginTake r).replies.release tag 0x30).append (replyRecord tag 0x30 Status.cancelled.code []) := by
    simp [State.cancelSwitch, State.convert, Command.code]
  rw [hcancel]
  refine ⟨by simp [ReplyQueue.release, ReplyQueue.append, hres], ?_⟩
  refine ReplyQueue.Ok.convert (State.beginTake_ok hs ht hn) _ ⟨⟨tag, 0x30, 9⟩, by simp [hres], rfl, rfl⟩ ?_ (by simp)
  intro e he _ _
  have hsize : e.size = 9 := by
    rw [hres] at he
    rcases List.mem_pair.1 he with rfl | rfl <;> rfl
  simp [hsize]

theorem State.Taken.replyInv {t : State} (h : s.Taken r t) (hs : s.ReplyInv) (ht : s.takeable = some r) :
    t.ReplyInv := by
  have hv : s.validation = none := (State.takeable_some ht).2.1
  cases h with
  | answered status hn hlen hu =>
    exact State.convert_replyInv hs ht hn status hlen (replyNeed_le hn) hu.replies (by simpa using hu.validation)
      (by simpa using hu.pendingSwitch)
  | replaced status c cells hn hlen =>
    exact State.convert_replyInv hs ht hn status hlen (replyNeed_le hn) rfl (by simp) (by simp)
  | validating x hcode hp =>
    have hn : replyNeed r = some 9 := replyNeed_of_code (c := .switch) hcode (by decide)
    refine State.kept_replyInv hs ht hn hp (by simp) ?_ (by simp [hp])
    rw [State.owed_of_validation rfl, hcode]
  | stopping hcode hp _ =>
    have hn : replyNeed r = some 9 := replyNeed_of_code (c := .stop) hcode (by decide)
    have hv' : ((s.beginTake r).makeStopPending r.tag).validation = none := by simpa [State.makeStopPending] using hv
    refine State.kept_replyInv hs ht hn hp rfl ?_ (by simp [hv'])
    rw [State.owed_of_stop hv' rfl, hcode]
  | @cancelled x tag hcode hp =>
    obtain ⟨hres, hok⟩ := State.cancelSwitch_replies hs ht hcode hp
    have hv' : ((s.beginTake r).cancelSwitch x tag).validation = none := by simpa [State.cancelSwitch] using hv
    refine (State.replyInv_iff _).2 ⟨?_, fun _ => rfl, ?_⟩
    · rw [State.reply, State.convert, ReplyQueue.convert_single hres]
      exact (State.owed_of_idle hv' rfl).symm
    · refine hok.convert _ ⟨⟨r.tag, r.code, 9⟩, by simp [hres], rfl, rfl⟩ ?_ (by simp)
      intro e he _ _
      rw [hres, List.mem_singleton] at he
      simp [he]
  | @cancelledStopping x tag hcode hp _ =>
    obtain ⟨hres, hok⟩ := State.cancelSwitch_replies hs ht hcode hp
    have hv' : (((s.beginTake r).cancelSwitch x tag).makeStopPending r.tag).validation = none := by
      simpa [State.cancelSwitch, State.makeStopPending] using hv
    refine (State.replyInv_iff _).2 ⟨?_, by simp [hv'], hok⟩
    rw [State.owed_of_stop hv' rfl]
    exact hcode ▸ hres

end Takes

/-! ### Resets, and every step (R134) -/

/-- An empty queue with nothing pending or in validation: what every reset leaves before its READY. -/
theorem State.replyInv_of_reset {s : State} (hq : s.replies = .empty) (hv : s.validation = none)
    (hp : s.engine.pendingSwitch = none) : s.ReplyInv := by
  refine (State.replyInv_iff s).2 ⟨?_, fun _ => hp, hq ▸ ReplyQueue.empty_ok⟩
  rw [hq, State.owed_of_idle hv hp]
  rfl

theorem SwitchStep.replyInv {s t : State} (h : SwitchStep s t) (hs : s.ReplyInv) : t.ReplyInv := by
  cases h with
  | moves h => exact h.keeps (fun _ _ => SwitchMove.replyInv) hs
  | taken r ht h => exact h.replyInv hs ht
  | assert lmode e => exact e ▸ State.replyInv_of_reset rfl rfl rfl
  | restart u _ e => exact e ▸ (State.ready_switchMove _ _).replyInv (State.replyInv_of_reset rfl rfl rfl)
  | full u e => exact e ▸ (State.ready_switchMove _ _).replyInv (State.replyInv_of_reset rfl rfl rfl)

/-- Settles O54: each move, take and reset keeps the reply queue and what is owed. -/
theorem stepsKeepTheReplyQueue : Obligations.StepsKeepTheReplyQueue := by
  intro s t h hs
  exact step_keeps (P := State.ReplyInv) (fun _ _ hs => hs) (fun _ _ _ h hs => (exec_switchStep h).replyInv hs) h hs

end Sys2Proof.Machine

/-! ## Every step keeps the pin flags equal to the reference sets, and what is referenced defined (R55, R64). -/

namespace Sys2Proof.Machine

/-! ### Moves -/

/-- A channel that is listed and defined before is defined after. -/
theorem Table.SamePins.isUndefined {s t : State} (h : Table.SamePins s.channels t.channels) {c : Nat}
    (hc : s.isUndefined c = false) : t.isUndefined c = false := by
  simp only [State.isUndefined, beq_eq_false_iff_ne] at hc ⊢
  exact h.defined c hc

theorem State.SamePins.validationRefs {s t : State} (h : s.SamePins t) : t.validationRefs = s.validationRefs := by
  simp only [State.validationRefs, h.validation]

theorem State.SamePins.pinInv {s t : State} (h : s.SamePins t) (hs : s.PinInv) : t.PinInv := by
  obtain ⟨hflags, hdefined, hboot, hnone⟩ := hs
  refine ⟨fun e' he' => ?_, fun c hc => h.channels.isUndefined (hdefined c ?_), ?_, ?_⟩
  · obtain ⟨e, he, hnumber, ha, hp⟩ := h.channels.flags e' he'
    rw [h.activeRefs, h.pendingRefs, ← hnumber, ← ha, ← hp]
    exact hflags e he
  · rwa [h.activeRefs, h.pendingRefs, h.validationRefs] at hc
  · rw [h.inForce, h.activeRefs]
    exact hboot
  · rw [h.pendingSwitch, h.pendingRefs]
    exact hnone

theorem State.notice_samePins (s : State) (code : Byte) (payload : List Byte) : s.SamePins (s.notice code payload) := by
  refine ⟨by simp, by simp, by simp, by simp, by simp, ?_⟩
  rw [State.notice_channels]
  exact .refl _

/-- New pin flags leave what is defined. -/
theorem State.setPins_isUndefined (s : State) (active pending : Nat → Bool → Bool) {c : Nat}
    (hc : s.isUndefined c = false) : (s.setPins active pending).isUndefined c = false := by
  have hne : s.channel c ≠ .blank := State.channel_ne_blank hc
  rw [State.isUndefined, State.channel, State.setPins_channels, Table.get_update_of_get c fun e => absurd e hne]
  exact hc

/-- The claims of the pins where one operation writes the pin flags: each flag as the new reference sets have it, and
in the sets only channels that were referenced before. -/
theorem State.PinInv.of_setPins {s t : State} (hs : s.PinInv) {active pending : Nat → Bool → Bool}
    (hchannels : t.channels = (s.setPins active pending).channels)
    (ha : ∀ c, active c (s.engine.activeRefs.contains c) = t.engine.activeRefs.contains c)
    (hp : ∀ c, pending c (s.engine.pendingRefs.contains c) = t.engine.pendingRefs.contains c)
    (hrefs : ∀ c ∈ t.engine.activeRefs ++ t.engine.pendingRefs ++ t.validationRefs,
      c ∈ s.engine.activeRefs ++ s.engine.pendingRefs ++ s.validationRefs)
    (hboot : t.engine.inForce = .boot → t.engine.activeRefs = [])
    (hnone : t.engine.pendingSwitch = none ∨ t.engine.pendingSwitch.map PendingSwitch.target = some .boot →
      t.engine.pendingRefs = []) : t.PinInv := by
  obtain ⟨hflags, hdefined, -, -⟩ := hs
  refine ⟨fun e' he' => ?_, fun c hc => ?_, hboot, hnone⟩
  · rw [hchannels, State.setPins_channels] at he'
    obtain ⟨e, he, rfl⟩ := List.mem_map.1 he'
    obtain ⟨hactive, hpending⟩ := hflags e he
    exact ⟨by rw [← ha, ← hactive], by rw [← hp, ← hpending]⟩
  · rw [State.isUndefined, State.channel, hchannels]
    exact s.setPins_isUndefined active pending (hdefined c (hrefs c hc))

/-- The claims of the pins where validation refers to other channels that are defined. -/
theorem State.PinInv.of_validationRefs {s t : State} (hs : s.PinInv) (hchannels : t.channels = s.channels)
    (hengine : t.engine = s.engine) (hrefs : ∀ c ∈ t.validationRefs, s.isUndefined c = false) : t.PinInv := by
  obtain ⟨hflags, hdefined, hboot, hnone⟩ := hs
  have hsame : ∀ c, t.isUndefined c = s.isUndefined c := by simp [State.isUndefined, State.channel, hchannels]
  rw [State.PinInv, hchannels, hengine]
  refine ⟨hflags, fun c hc => ?_, hboot, hnone⟩
  rw [hsame]
  rcases List.mem_append.1 hc with hsets | hvalidation
  · exact hdefined c (List.mem_append_left _ hsets)
  · exact hrefs c hvalidation

theorem State.validationRefs_of_none {s : State} (hv : s.validation = none) : s.validationRefs = [] := by
  simp only [State.validationRefs, hv]

theorem State.completeFound_pinInv {s : State} (v : Validation) (f : Finding) (hs : s.PinInv) :
    (s.completeFound v f).PinInv := by
  refine hs.of_validationRefs ?_ ?_ nofun
  · simp [State.completeFound]
  · simp [State.completeFound]

theorem State.completePassed_pinInv {s : State} {v : Validation} {refs : List Nat} (hs : s.PinInv)
    (hfree : s.engine.pendingSwitch = none) (hv : s.validation = some v) (hprogress : v.progress = .passed refs) :
    (s.completePassed v refs).PinInv := by
  have hrefs : s.validationRefs = refs := by simp only [State.validationRefs, hv, hprogress]
  have hempty : s.engine.pendingRefs = [] := hs.pendingRefs_eq_nil (.inl hfree)
  refine hs.of_setPins (active := fun _ a => a) (pending := fun c p => p || refs.contains c) ?_ ?_ ?_ ?_ ?_ ?_
  · simp [State.completePassed]
  · simp [State.completePassed]
  · simp [State.completePassed, hempty]
  · rw [State.validationRefs_of_none rfl, hrefs, hempty]
    simp [State.completePassed]
  · simpa [State.completePassed] using hs.activeRefs_eq_nil
  · simp [State.completePassed]

theorem State.installBank_pinInv {s : State} (x : BankId) (tag : Byte) (hs : s.PinInv) :
    (s.installBank x tag).PinInv := by
  have hvalidation : (s.installBank x tag).validationRefs = s.validationRefs := by
    simp only [State.installBank, State.retireInForce_eq, State.setBankState_eq]
    rfl
  refine hs.of_setPins
    (active := fun c a => (a && !s.engine.activeRefs.contains c) || s.engine.pendingRefs.contains c)
    (pending := fun c p => p && !s.engine.pendingRefs.contains c) ?_ (fun c => ?_) (fun c => ?_) (fun c hc => ?_)
    nofun (fun _ => rfl)
  · simp only [State.installBank, State.retireInForce_eq, State.setBankState_eq]
    rfl
  · simp [State.installBank, State.retireInForce_engine]
  · simp [State.installBank]
  · rw [hvalidation] at hc
    simp only [State.installBank, State.retireInForce_engine, State.count_engine, State.convert_engine,
      State.setBankState_engine, List.append_nil, List.mem_append] at hc ⊢
    tauto

theorem State.installBoot_pinInv {s : State} {tag : Byte} (hs : s.PinInv)
    (hp : s.engine.pendingSwitch = some ⟨.boot, tag⟩) : (s.installBoot tag).PinInv := by
  have hempty : s.engine.pendingRefs = [] := hs.pendingRefs_eq_nil (.inr (by rw [hp]; rfl))
  have hvalidation : (s.installBoot tag).validationRefs = s.validationRefs := by
    simp only [State.installBoot, State.retireInForce_eq]
    rfl
  refine hs.of_setPins (active := fun c a => a && !s.engine.activeRefs.contains c) (pending := fun _ p => p)
    ?_ (fun c => ?_) (fun c => ?_) (fun c hc => ?_) (fun _ => rfl) (fun _ => ?_)
  · simp only [State.installBoot, State.retireInForce_eq]
    rfl
  · simp [State.installBoot]
  · simp [State.installBoot, State.retireInForce_engine]
  · rw [hvalidation] at hc
    simp only [State.installBoot, State.retireInForce_engine, State.convert_engine, State.setPins_engine,
      List.nil_append, List.mem_append] at hc ⊢
    tauto
  · simpa [State.installBoot, State.retireInForce_engine] using hempty

/-! ### Validation refers to defined channels alone (R22, R23) -/

/-- The channels that a validation has referenced so far. -/
def Progress.refs : Progress → List Nat
  | .examine _ _ _ refs | .passed refs => refs
  | .test _ | .found _ => []

theorem State.validationRefs_of_some {s : State} {v : Validation} (hv : s.validation = some v) :
    s.validationRefs = v.progress.refs := by
  simp only [State.validationRefs, hv]
  cases v.progress <;> rfl

theorem Seen.reference_refs {seen seen' : Seen} {c : Nat} {m : RefMode} (h : seen.reference c m = .ok seen') :
    seen'.refs = insertChannel c seen.refs := by
  unfold Seen.reference at h
  split at h
  · cases h
    rfl
  · split at h <;> cases h
    rfl

/-- A run of picks that passes adds its own channels to the references. -/
theorem Seen.picks_refs {seen seen' : Seen} {run : List Pick} (h : seen.picks run = .ok seen') {c : Nat}
    (hc : c ∈ seen'.refs) : c ∈ seen.refs ∨ ∃ bit m, Pick.channelBit c bit m ∈ run := by
  by_cases hheld : HeldAfterCapture seen.captured run
  · obtain ⟨seen'', e, -, hrefs⟩ := Seen.picks_of_heldAfterCapture run seen hheld
    cases e.symm.trans h
    exact (hrefs c).1 hc
  · rw [Seen.picks_of_not_heldAfterCapture run seen hheld] at h
    cases h

section Examination

variable {s : State} {b : Bank} {g : Geometry} {seen seen' : Seen} {c : Nat}

theorem State.examineSlot_refs {d : Slot} (h : s.examineSlot b g seen d = .ok seen') (hc : c ∈ seen'.refs) :
    c ∈ seen.refs ∨ s.isUndefined c = false := by
  cases d with
  | channel k m signed shift width =>
    simp only [State.examineSlot] at h
    split_ifs at h with hwidth hundef
    rw [Seen.reference_refs h, mem_insertChannel] at hc
    rcases hc with rfl | hc
    · exact .inr (by simpa using hundef)
    · exact .inl hc
  | packed a n =>
    simp only [State.examineSlot] at h
    split_ifs at h with hwidth hunset hundef hmismatch
    refine (Seen.picks_refs h hc).imp_right fun ⟨bit, m, hpick⟩ => Bool.eq_false_iff.2 fun hk => hundef ?_
    exact (s.any_pickUndefined _).2 ⟨c, bit, m, hpick, (s.isUndefined_iff c).1 hk⟩
  | const v =>
    simp only [State.examineSlot] at h
    split_ifs at h
    cases h
    exact .inl hc
  | time shift width =>
    simp only [State.examineSlot] at h
    split_ifs at h
    cases h
    exact .inl hc
  | _ =>
    cases h
    exact .inl hc

theorem State.examinePlace_refs {f p : Nat} (h : s.examinePlace b g f p seen = .ok seen') (hc : c ∈ seen'.refs) :
    c ∈ seen.refs ∨ s.isUndefined c = false := by
  unfold State.examinePlace at h
  split at h
  · cases h
  · dsimp only at h
    split_ifs at h
    split at h
    · cases h
    · exact State.examineSlot_refs h hc
  · exact State.examineSlot_refs h hc

/-- One period refers to defined channels, besides those referenced before. -/
theorem State.nextProgress_refs {p : Progress} (hc : c ∈ (s.nextProgress b p).refs) :
    c ∈ p.refs ∨ s.isUndefined c = false := by
  cases p with
  | test t =>
    simp only [State.nextProgress] at hc
    split at hc
    · cases hc
    · cases t <;> cases hc
  | examine f place captured refs =>
    simp only [State.nextProgress] at hc
    split at hc
    · cases hc
    · rename_i seen' h
      have hseen : c ∈ seen'.refs := by split_ifs at hc <;> exact hc
      exact State.examinePlace_refs h hseen
  | found f => cases hc
  | passed refs => exact .inl hc

end Examination

theorem State.refclkEdge_pinInv {s : State} (order : EdgeOrder) (hs : s.PinInv) : (s.refclkEdge order).PinInv := by
  have hchannels : (s.refclkEdge order).channels = s.channels := by simp [State.refclkEdge, s.validatePeriod_eq]
  refine hs.of_validationRefs hchannels (s.refclkEdge_engine order) fun c hc => ?_
  have hnext := s.refclkEdge_validation order
  cases hv : s.validation with
  | none =>
    rw [hv] at hnext
    rw [State.validationRefs_of_none hnext] at hc
    cases hc
  | some v =>
    rw [hv] at hnext
    rw [State.validationRefs_of_some hnext] at hc
    rcases State.nextProgress_refs hc with hbefore | hdefined
    · exact hs.defined (List.mem_append_right _ (State.validationRefs_of_some hv ▸ hbefore))
    · exact hdefined

/-- Nothing is pending while a validation runs, after every move as before it (R56). -/
theorem SwitchMove.free {s t : State} (h : SwitchMove s t)
    (hs : s.validation.isSome = true → s.engine.pendingSwitch = none) :
    t.validation.isSome = true → t.engine.pendingSwitch = none := by
  cases h with
  | same h => rwa [h.validation, h.pendingSwitch]
  | notice code _ => simpa using hs
  | emit => exact hs
  | completeFound | completePassed => exact nofun
  | refclkEdge order => rwa [State.refclkEdge_validation, State.refclkEdge_engine, Option.isSome_map]
  | installBank | installBoot => exact fun _ => rfl

/-- Every move keeps the pins. -/
theorem SwitchMove.pinInv {s t : State} (h : SwitchMove s t)
    (hfree : s.validation.isSome = true → s.engine.pendingSwitch = none) (hs : s.PinInv) : t.PinInv := by
  cases h with
  | same h => exact h.pinInv hs
  | notice code _ => exact (s.notice_samePins code _).pinInv hs
  | emit => exact hs
  | completeFound v f _ => exact State.completeFound_pinInv v f hs
  | completePassed v refs hv hprogress => exact State.completePassed_pinInv hs (hfree (by rw [hv]; rfl)) hv hprogress
  | refclkEdge order => exact State.refclkEdge_pinInv order hs
  | installBank x tag _ => exact State.installBank_pinInv x tag hs
  | installBoot tag hp => exact State.installBoot_pinInv hs hp

/-! ### Takes (R83, R87, R88) -/

theorem State.beginTake_samePins (s : State) (r : CmdRecord) : s.SamePins (s.beginTake r) :=
  .of_eq (by simp) (by simp) (by simp)

theorem State.convert_samePins (s : State) (tag code status : Byte) (payload : List Byte) :
    s.SamePins (s.convert tag code status payload) := .of_eq rfl rfl rfl

/-- A channel that is UNDEFINED or not pinned stands in no reference set, so its record may be replaced by one without
pins. -/
theorem State.PinInv.of_replaced {s t : State} (hs : s.PinInv) {c : Nat} {ch : Channel}
    (hold : (s.channel c).keeping = .undefined ∨ (s.channel c).pinned = false) (ha : ch.activeRef = false)
    (hp : ch.pendingRef = false) (hchannels : t.channels = Table.put .blank s.channels c ch)
    (hengine : t.engine = s.engine) (hv : t.validation = none) : t.PinInv := by
  have hnot : c ∉ s.engine.activeRefs ++ s.engine.pendingRefs := by
    intro hc
    rcases hold with hk | hpinned
    · have hdef := hs.defined (List.mem_append_left _ hc)
      rw [(s.isUndefined_iff c).2 hk] at hdef
      cases hdef
    · simp only [Channel.pinned, Bool.or_eq_false_iff, (hs.flags c).1, (hs.flags c).2] at hpinned
      simp_all
  obtain ⟨hflags, hdefined, hboot, hnone⟩ := hs
  rw [State.PinInv, hengine, State.validationRefs_of_none hv, List.append_nil]
  refine ⟨fun e he => ?_, fun k hk => ?_, hboot, hnone⟩
  · rw [hchannels] at he
    rcases Table.mem_put he with hmem | rfl
    · exact hflags e hmem
    · simp only [List.mem_append, not_or] at hnot
      simp [ha, hp, hnot]
  · have hne : k ≠ c := fun e => hnot (e ▸ hk)
    rw [State.isUndefined, State.channel, hchannels, Table.get_put_ne hne]
    exact hdefined k (List.mem_append_left _ hk)

theorem State.cancelSwitch_pinInv {s : State} (x : BankId) (tag : Byte) (hs : s.PinInv) :
    (s.cancelSwitch x tag).PinInv := by
  have hvalidation : (s.cancelSwitch x tag).validationRefs = s.validationRefs := by
    simp [State.cancelSwitch, State.validationRefs]
  refine hs.of_setPins (active := fun _ a => a) (pending := fun c p => p && !s.engine.pendingRefs.contains c)
    ?_ (fun c => ?_) (fun c => ?_) (fun c hc => ?_) ?_ (fun _ => rfl)
  · simp [State.cancelSwitch]
  · simp [State.cancelSwitch]
  · simp [State.cancelSwitch]
  · rw [hvalidation] at hc
    simp only [State.cancelSwitch, State.convert_engine, State.setPins_engine, State.setBankState_engine,
      List.append_nil, List.mem_append] at hc ⊢
    tauto
  · simpa [State.cancelSwitch] using hs.activeRefs_eq_nil

theorem State.makeStopPending_pinInv {s : State} (tag : Byte) (hs : s.PinInv) (hempty : s.engine.pendingRefs = []) :
    (s.makeStopPending tag).PinInv := by
  obtain ⟨hflags, hdefined, hboot, -⟩ := hs
  exact ⟨hflags, hdefined, hboot, fun _ => hempty⟩

theorem State.Taken.pinInv {s t : State} {r : CmdRecord} (h : s.Taken r t) (hv : s.validation = none)
    (hs : s.PinInv) : t.PinInv := by
  have hbegin : (s.beginTake r).PinInv := (s.beginTake_samePins r).pinInv hs
  cases h with
  | answered status _ _ hu =>
    exact (hu.toSamePins.trans (State.convert_samePins _ _ _ _ _)).pinInv hbegin
  | replaced status c cells _ _ hold ha hp =>
    exact hs.of_replaced hold ha hp (by simp) (by simp) (by simpa using hv)
  | validating x _ _ => exact hbegin.of_validationRefs (by simp) (by simp) nofun
  | stopping _ hp _ =>
    exact State.makeStopPending_pinInv r.tag hbegin (hbegin.pendingRefs_eq_nil (.inl (by simpa using hp)))
  | cancelled _ _ => exact (State.convert_samePins _ _ _ _ _).pinInv (State.cancelSwitch_pinInv _ _ hbegin)
  | cancelledStopping _ _ _ => exact State.makeStopPending_pinInv r.tag (State.cancelSwitch_pinInv _ _ hbegin) rfl

/-! ### Resets, and every step -/

/-- No pin flag set and both sets empty: what every reset leaves before its READY (R91, R108). -/
theorem State.pinInv_of_reset {s : State} (he : s.engine = .reset) (hv : s.validation = none)
    (hflags : ∀ e ∈ s.channels, e.2.activeRef = false ∧ e.2.pendingRef = false) : s.PinInv := by
  rw [State.PinInv, he, State.validationRefs_of_none hv]
  exact ⟨hflags, nofun, fun _ => rfl, fun _ => rfl⟩

theorem Channel.restart_flags {ch : Channel} (h : ch.keeping ≠ .undefined) :
    ch.restart.activeRef = false ∧ ch.restart.pendingRef = false := by
  unfold Channel.restart
  split
  · exact absurd ‹_› h
  · exact ⟨rfl, rfl⟩
  · exact ⟨rfl, rfl⟩

theorem State.restart_pinInv {s : State} (hdefined : ∀ e ∈ s.channels, e.2.keeping ≠ .undefined) :
    s.restart.PinInv := by
  refine (State.notice_samePins _ _ _).pinInv (State.pinInv_of_reset rfl rfl fun e' he' => ?_)
  obtain ⟨e, he, rfl⟩ := List.mem_map.1 he'
  exact Channel.restart_flags (hdefined e he)

theorem SwitchStep.pinInv {s t : State} (h : SwitchStep s t) (hdefined : ∀ e ∈ s.channels, e.2.keeping ≠ .undefined)
    (hfree : s.validation.isSome = true → s.engine.pendingSwitch = none) (hs : s.PinInv) : t.PinInv := by
  cases h with
  | moves h =>
    exact (h.keeps (P := fun u => (u.validation.isSome = true → u.engine.pendingSwitch = none) ∧ u.PinInv)
      (fun _ _ hm hu => ⟨hm.free hu.1, hm.pinInv hu.1 hu.2⟩) ⟨hfree, hs⟩).2
  | taken r ht h => exact h.pinInv (State.takeable_some ht).2.1 hs
  | assert lmode e => exact e ▸ State.pinInv_of_reset rfl rfl nofun
  | restart u hu e => exact e ▸ State.restart_pinInv (hu ▸ hdefined)
  | full u e => exact e ▸ (State.notice_samePins _ _ _).pinInv (State.pinInv_of_reset rfl rfl nofun)

/-- A step is the command at the front, on the state with the queue's rest, or it idles (log 3). -/
theorem step_exec {s t : State} (h : step s = .next t) :
    t = s ∨ ∃ (i : Instr) (rest : List Instr), exec i { s with pending := rest } = .next t := by
  unfold step at h
  split at h
  · cases h
    exact .inl rfl
  · exact .inr ⟨_, _, h⟩

/-- Settles O57: each move, take and reset keeps the pins; RESTART clears them because every listed channel is
defined. -/
theorem stepsKeepPinnedChannels : Obligations.StepsKeepPinnedChannels := by
  intro s t h hpool hengine hs
  rcases step_exec h with rfl | ⟨i, rest, hexec⟩
  · exact hs
  · obtain ⟨-, hlisted, -⟩ := hpool
    obtain ⟨-, -, -, hfree, -⟩ := (State.engineInv_iff s).1 hengine
    refine (exec_switchStep hexec).pinInv (fun e he => ?_) hfree hs
    obtain ⟨-, hdefined, -⟩ := hlisted e he
    exact hdefined

end Sys2Proof.Machine

/-! ## What a command can do to the channel store and the latched flags: every command is a chain of writes of one
record, changes of every record, flags, and resets; and what of them every chain keeps (R69, R70, R77, R93, R136). -/

namespace Sys2Proof.Machine

/-! ### Records that stay in range (R70, R77, R93) -/

/-- The record `new` in place of `old` is in its limit and in the ranges of its ages where `old` was. -/
structure Channel.StaysInRange (old new : Channel) : Prop where
  withinLimit : old.withinLimit = true → new.withinLimit = true
  agesWell : old.agesWell = true → new.agesWell = true

/-- Moreover it is defined as `old` was, and holds the samples of `old`. -/
structure Channel.SameQueue (old new : Channel) : Prop extends old.StaysInRange new where
  undefined : new.keeping = .undefined ↔ old.keeping = .undefined
  queue : new.queue = old.queue

/-- Limit, queue and ages are in the kind with its fields; only the latest cell and the fill value matter besides. -/
theorem Channel.SameQueue.of_keeping {old new : Channel} (hk : new.keeping = old.keeping)
    (hl : new.latestCell = old.latestCell) (hf : new.fill = old.fill) : old.SameQueue new := by
  refine ⟨⟨?_, ?_⟩, by rw [hk], ?_⟩
  · simp [Channel.withinLimit, hk]
  · simp [Channel.agesWell, hk, hl, hf]
  · simp [Channel.queue, hk]

theorem Channel.agesWell_latest {ch : Channel} {p : LatestPart} (hk : ch.keeping = .latest p) :
    ch.agesWell = true ↔ p.age ≤ 255 ∧ p.limit ≤ 254
      ∧ (p.freshness = .never → p.age = 255 ∧ ch.latestCell = ch.fill) ∧ (p.freshness = .stale → 2 ≤ p.age) := by
  simp [Channel.agesWell, hk, and_assoc, imp_iff_not_or]

theorem Channel.agesWell_queued {ch : Channel} {p : QueuedPart} (hk : ch.keeping = .queued p) :
    ch.agesWell = true ↔ 1 ≤ p.limit ∧ p.limit ≤ 255 := by
  simp [Channel.agesWell, hk]

theorem Channel.queue_latest {ch : Channel} {p : LatestPart} (hk : ch.keeping = .latest p) : ch.queue = [] := by
  simp [Channel.queue, hk]

theorem Channel.queue_queued {ch : Channel} {p : QueuedPart} (hk : ch.keeping = .queued p) : ch.queue = p.queue := by
  simp [Channel.queue, hk]

theorem Channel.withinLimit_queued {ch : Channel} {p : QueuedPart} (hk : ch.keeping = .queued p) :
    ch.withinLimit = true ↔ p.queue.length ≤ p.limit := by
  simp [Channel.withinLimit, hk]

theorem Channel.withinLimit_latest {ch : Channel} {p : LatestPart} (hk : ch.keeping = .latest p) :
    ch.withinLimit = true := by
  simp [Channel.withinLimit, hk]

/-- A LATEST record in place of another: its ages decide. -/
theorem Channel.SameQueue.of_latest {old new : Channel} {p q : LatestPart} (ho : old.keeping = .latest p)
    (hn : new.keeping = .latest q) (hages : old.agesWell = true → new.agesWell = true) : old.SameQueue new := by
  refine ⟨⟨fun _ => Channel.withinLimit_latest hn, hages⟩, by simp [ho, hn], ?_⟩
  rw [Channel.queue_latest ho, Channel.queue_latest hn]

/-- A QUEUED record with another queue of the same limit. -/
theorem Channel.StaysInRange.of_queued {old new : Channel} {p : QueuedPart} {queue : List Sample}
    (ho : old.keeping = .queued p) (hn : new.keeping = .queued { p with queue := queue })
    (hq : p.queue.length ≤ p.limit → queue.length ≤ p.limit) : old.StaysInRange new := by
  refine ⟨?_, ?_⟩
  · rw [Channel.withinLimit_queued ho, Channel.withinLimit_queued hn]
    exact hq
  · rw [Channel.agesWell_queued ho, Channel.agesWell_queued hn]
    exact id

/-- The freshness tick (R79): an age that passes its limit is at least 2. -/
theorem Channel.tick_sameQueue (ch : Channel) : ch.SameQueue ch.tick := by
  cases hk : ch.keeping with
  | undefined | queued =>
    have hsame : ch.tick = ch := by simp [Channel.tick, hk]
    rw [hsame]
    exact .of_keeping rfl rfl rfl
  | latest p =>
    by_cases hages : ch.agesWell = true
    · rw [Channel.tick_latest hk hages]
      refine .of_latest hk rfl fun _ => (Channel.agesWell_latest rfl).2 ?_
      obtain ⟨hage, hlimit, hnever, hstale⟩ := (Channel.agesWell_latest hk).1 hages
      dsimp only
      refine ⟨by split <;> omega, hlimit, fun hf => ?_, fun hf => ?_⟩
      · split at hf
        · cases hf
        · obtain ⟨h255, hcell⟩ := hnever hf
          exact ⟨if_pos h255, hcell⟩
      · split at hf
        · split <;> omega
        · have := hstale hf
          split <;> omega
    · exact .of_latest hk (by simp only [Channel.tick, hk]; rfl) fun h => absurd h hages

/-! ### The moves of the channel store -/

/-- One move: what one operation of the part does to channel records, free cells and latched flags. -/
inductive StoreMove : State → State → Prop
  | same {s t : State} : t.channels = s.channels → t.freeCells = s.freeCells → t.health.latched = s.health.latched →
      StoreMove s t
  | flag (s : State) (f : LatchedFlag) : StoreMove s (s.setFlag f)
  | clearFlags (s : State) (width : Nat) : StoreMove s { s with health := s.health.clearCarried width }
  | write {s : State} {c : Nat} {ch : Channel} (cells : Nat) :
      ((s.channel c).keeping = .undefined → channelOk c = true) → (ch.keeping = .undefined → ch = .blank) →
      (s.channel c).StaysInRange ch → cells + ch.queue.length = s.freeCells + (s.channel c).queue.length →
      StoreMove s { s.setChannel c ch with freeCells := cells }
  | each {s t : State} (f : Nat → Channel → Channel) : (∀ c (ch : Channel), ch.SameQueue (f c ch)) →
      t.channels = Table.update f s.channels → t.freeCells = s.freeCells → t.health.latched = s.health.latched →
      StoreMove s t
  | restart {s t : State} : t.channels = Table.update (fun _ ch => ch.restart) s.channels → t.freeCells = 2048 →
      t.health.latched = Health.reset.latched → StoreMove s t
  | clear {s t : State} : t.channels = [] → t.freeCells = 2048 → t.health.latched = Health.reset.latched →
      StoreMove s t

/-- Any number of moves, one after another. -/
abbrev StoreMoves : State → State → Prop := Relation.ReflTransGen StoreMove

/-- What one move keeps, any number of moves keeps. -/
theorem StoreMoves.keeps {P : State → Prop} (hmove : ∀ s t, StoreMove s t → P s → P t) {s t : State}
    (h : StoreMoves s t) (hs : P s) : P t := by
  induction h with
  | refl => exact hs
  | tail _ hstep ih => exact hmove _ _ hstep ih

theorem StoreMoves.report (s : State) (k : DeviceCounter) (n : Nat) (f : LatchedFlag) :
    StoreMoves s (s.report k n f) :=
  .tail (.single (.same (t := s.count k n) rfl rfl rfl)) (.flag _ f)

/-- Moves that end with an event counted and flagged, or with a flag alone. -/
theorem StoreMoves.reported {s t : State} {k : DeviceCounter} {n : Nat} {f : LatchedFlag} (h : StoreMoves s t) :
    StoreMoves s (t.report k n f) := h.trans (StoreMoves.report t k n f)

theorem StoreMoves.flagged {s t : State} {f : LatchedFlag} (h : StoreMoves s t) : StoreMoves s (t.setFlag f) :=
  h.tail (.flag t f)

theorem StoreMoves.notice (s : State) (code : Byte) (payload : List Byte) : StoreMoves s (s.notice code payload) := by
  unfold State.notice
  split
  · exact .single (.same rfl rfl rfl)
  · exact .report s _ _ _

/-- The record of a defined channel replaced by one with the same samples. -/
theorem StoreMove.rewrite {s : State} {c : Nat} {ch : Channel} (hc : (s.channel c).keeping ≠ .undefined)
    (h : (s.channel c).SameQueue ch) : StoreMove s (s.setChannel c ch) :=
  .write s.freeCells (fun hk => absurd hk hc) (fun hk => absurd (h.undefined.1 hk) hc) h.toStaysInRange
    (by rw [h.queue])

/-- The record of a QUEUED channel with another queue, and the cells that the two queues differ in. -/
theorem StoreMove.requeue {s : State} {c : Nat} {ch : Channel} {p : QueuedPart} {queue : List Sample} {cells : Nat}
    (ho : (s.channel c).keeping = .queued p) (hn : ch.keeping = .queued { p with queue := queue })
    (hlimit : p.queue.length ≤ p.limit → queue.length ≤ p.limit)
    (hcells : cells + queue.length = s.freeCells + p.queue.length) :
    StoreMove s { s.setChannel c ch with freeCells := cells } := by
  refine .write cells (by simp [ho]) (by simp [hn]) (.of_queued ho hn hlimit) ?_
  rw [Channel.queue_queued ho, Channel.queue_queued hn]
  exact hcells

/-! ### Arrivals (R72 to R78, R98) -/

theorem State.appendSample_storeMoves {s : State} {c : Nat} {ch : Channel} {p : QueuedPart}
    (hk : (s.channel c).keeping = .queued p) (v : Sample) : StoreMoves s (s.appendSample c ch p v) := by
  unfold State.appendSample
  split
  · rename_i hfree
    refine .single (.requeue hk rfl (fun _ => ?_) ?_)
    · rw [List.length_append]
      exact hfree.1
    · have := hfree.2
      simp only [List.length_append, List.length_singleton]
      omega
  · have hrequeue : ∀ queue : List Sample, queue.length = p.queue.length →
        StoreMoves s ((s.setChannel c ({ ch with keeping := .queued { p with queue := queue } }.countOverflow 1)).report
          .overflowDrops 1 .sampleDrop) := fun queue hlen =>
      StoreMoves.reported (.single (.requeue hk rfl (fun h => hlen ▸ h) (by rw [hlen])))
    dsimp only
    split
    · rename_i hq
      exact hrequeue _ (by simp [hq])
    · rename_i hq
      exact hrequeue _ (by simp [hq])
    · exact hrequeue _ rfl

theorem State.acceptSample_storeMoves {s : State} {c : Nat} {ch : Channel} (hk : ch.keeping = (s.channel c).keeping)
    (seq : Byte) (v : Sample) : StoreMoves s (s.acceptSample c ch seq v) := by
  unfold State.acceptSample
  dsimp only
  split
  · exact .refl
  · rename_i p hp
    have hlatest : (s.channel c).keeping = .latest p := hk ▸ hp
    have hages : (s.channel c).SameQueue { ch with
        lastSeq := some seq
        counters := { ch.counters with received := satAdd ch.counters.received 1 }
        latestCell := v
        keeping := .latest { p with freshness := .fresh, age := 0 } } := by
      refine .of_latest hlatest rfl fun h => (Channel.agesWell_latest rfl).2 ?_
      obtain ⟨-, hlimit, -, -⟩ := (Channel.agesWell_latest hlatest).1 h
      exact ⟨Nat.zero_le _, hlimit, nofun, nofun⟩
    have hset := StoreMove.rewrite (ne_of_eq_of_ne hlatest nofun) hages
    split
    · exact .trans (.single hset) (StoreMoves.notice _ _ _)
    · exact .single hset
  · rename_i p hp
    exact State.appendSample_storeMoves (hk ▸ hp) v

/-- One arrival: a sample of an UNDEFINED channel is an orphan (R72, R101). -/
theorem State.arrive_storeMoves (s : State) (c : Nat) (seq : Byte) (v : Sample) :
    StoreMoves s (s.arrive c seq v) := by
  unfold State.arrive
  dsimp only
  split
  · exact .report s _ _ _
  · rename_i hdef
    have hc : (s.channel c).keeping ≠ .undefined := fun h => hdef (.inr h)
    split
    · exact State.acceptSample_storeMoves rfl seq v
    · refine (StoreMoves.report s _ _ _).trans (State.acceptSample_storeMoves ?_ seq v)
      rfl
    · exact StoreMoves.reported (.single (.rewrite hc (.of_keeping rfl rfl rfl)))
    · exact StoreMoves.reported (.single (.rewrite hc (.of_keeping rfl rfl rfl)))

theorem State.arriveAll_storeMoves (c : Nat) (vs : List Sample) (s : State) (seq : Byte) :
    StoreMoves s (s.arriveAll c seq vs) := by
  induction vs generalizing s seq with
  | nil => exact .refl
  | cons v vs ih => exact (s.arrive_storeMoves c seq v).trans (ih _ _)

theorem State.dispatch_storeMoves (s : State) (m : List Byte) (k : MessageKind) : StoreMoves s (s.dispatch m k) := by
  cases k with
  | sample => exact State.arriveAll_storeMoves _ _ s _
  | block => exact State.arriveAll_storeMoves _ _ s _
  | command =>
    simp only [State.dispatch, State.pushCommand]
    split
    · exact .single (.same rfl rfl rfl)
    · exact .report s _ _ _

theorem State.completeMessage_storeMoves (s : State) : StoreMoves s s.completeMessage := by
  have hidle : StoreMove s { s with intake := .idle } := .same rfl rfl rfl
  unfold State.completeMessage
  dsimp only
  split
  · exact StoreMoves.reported (.single hidle)
  split
  · exact .head hidle (State.dispatch_storeMoves _ _ _)
  · exact .single hidle

/-! ### Captures, ticks and fetches (R37 to R41, R79) -/

theorem State.capture_storeMoves (s : State) (c : Nat) : StoreMoves s (s.capture c).1 := by
  cases hk : (s.channel c).keeping with
  | undefined =>
    have hnone : (s.capture c).1 = s := by simp [State.capture, hk]
    rw [hnone]
  | latest p =>
    have hc : (s.channel c).keeping ≠ .undefined := by simp [hk]
    by_cases hf : p.freshness = .fresh
    · rw [State.capture_fresh hk hf]
      exact .single (.rewrite hc (.of_keeping rfl rfl rfl))
    · rw [State.capture_notFresh hk hf]
      exact StoreMoves.flagged (.single (.rewrite hc (.of_keeping rfl rfl rfl)))
  | queued p =>
    have hc : (s.channel c).keeping ≠ .undefined := by simp [hk]
    cases hq : p.queue with
    | nil =>
      rw [State.capture_underrun hk hq]
      exact StoreMoves.reported (.single (.rewrite hc (.of_keeping rfl rfl rfl)))
    | cons oldest rest =>
      rw [State.capture_queued hk hq]
      have hlen : p.queue.length = rest.length + 1 := by rw [hq, List.length_cons]
      exact .single (.requeue hk rfl (by omega) (by omega))

theorem State.packRun_storeMoves (ps : List Pick) (s : State) (i : Nat) (done : List (Nat × Sample)) :
    StoreMoves s (s.packRun i done ps).1 := by
  induction ps generalizing s i done with
  | nil => exact .refl
  | cons p ps ih =>
    rcases p with _ | ⟨c, b, _ | _⟩ | _ | _
    case channelBit.capture =>
      simp only [State.packRun]
      split
      · exact ih s (i + 1) done
      · exact (s.capture_storeMoves c).trans (ih _ _ _)
    all_goals exact ih s (i + 1) done

theorem State.content_storeMoves (s : State) (p : Nat) (d : Slot) : StoreMoves s (s.content p d).1 := by
  rcases d with _ | _ | _ | _ | _ | _ | _ | _ | ⟨c, _ | _, sg, sh, w⟩ | ⟨a, k⟩ | _
  case health => exact .single (.clearFlags s _)
  case channel.capture => exact s.capture_storeMoves c
  case packed => exact State.packRun_storeMoves _ s 0 []
  all_goals exact .single (.same rfl rfl rfl)

theorem State.notices_storeMoves (code : Byte) (cs : List Nat) (s : State) :
    StoreMoves s (cs.foldl (fun s c => s.notice code (bytesOf 2 c)) s) := by
  induction cs generalizing s with
  | nil => exact .refl
  | cons c cs ih => exact (StoreMoves.notice s code _).trans (ih _)

theorem State.tick_storeMoves (s : State) : StoreMoves s s.tick :=
  .head (.each (t := { s with channels := Table.update (fun _ ch => ch.tick) s.channels }) _
    (fun _ => Channel.tick_sameQueue) rfl rfl rfl) (State.notices_storeMoves _ _ _)

/-- New pin flags leave the rest of every record (R64). -/
theorem StoreMove.pins {s t : State} (active pending : Nat → Bool → Bool)
    (hc : t.channels = (s.setPins active pending).channels) (hn : t.freeCells = s.freeCells)
    (hl : t.health.latched = s.health.latched) : StoreMove s t :=
  .each (fun c ch => { ch with activeRef := active c ch.activeRef, pendingRef := pending c ch.pendingRef })
    (fun _ _ => .of_keeping rfl rfl rfl) hc hn hl

theorem State.installBank_storeMove (s : State) (x : BankId) (tag : Byte) : StoreMove s (s.installBank x tag) := by
  simp only [State.installBank, State.retireInForce_eq, State.setBankState_eq]
  exact .pins (fun c a => (a && !s.engine.activeRefs.contains c) || s.engine.pendingRefs.contains c)
    (fun c p => p && !s.engine.pendingRefs.contains c) rfl rfl rfl

theorem State.installBoot_storeMove (s : State) (tag : Byte) : StoreMove s (s.installBoot tag) := by
  simp only [State.installBoot, State.retireInForce_eq]
  exact .pins (fun c a => a && !s.engine.activeRefs.contains c) (fun _ p => p) rfl rfl rfl

theorem State.carryOut_storeMoves (s : State) : StoreMoves s s.carryOut := by
  unfold State.carryOut
  split
  · exact .refl
  · exact .single (s.installBank_storeMove _ _)
  · exact .single (s.installBoot_storeMove _)

theorem State.atWord_storeMoves (s : State) : StoreMoves s s.atWord := by
  unfold State.atWord
  split
  · have hbegun : StoreMove s s.frameBegun := by
      rw [s.frameBegun_eq]
      exact .same rfl rfl rfl
    have htick : StoreMoves s s.frameBegun.tick := .head hbegun (State.tick_storeMoves _)
    rw [s.frameStart_eq]
    split
    · exact htick.trans (State.carryOut_storeMoves _)
    · exact htick
  · exact .refl

theorem State.fetch_storeMoves (s : State) : StoreMoves s s.fetch.endStrobe := by
  rw [s.fetch_eq]
  exact (s.atWord_storeMoves.trans (State.content_storeMoves _ _ _)).tail (.same rfl rfl rfl)

theorem State.strobe_storeMoves (s : State) : StoreMoves s s.strobe := by
  unfold State.strobe
  split
  · split
    · exact s.fetch_storeMoves
    · exact .single (.same rfl rfl rfl)
  · exact s.fetch_storeMoves

theorem State.completeValidation_storeMoves (s : State) : StoreMoves s s.completeValidation := by
  unfold State.completeValidation
  split
  · split
    · exact .single (.same (by simp [State.completeFound]) (by simp [State.completeFound])
        (by simp [State.completeFound]))
    · rename_i refs _
      exact .single (.pins (fun _ a => a) (fun c p => p || refs.contains c) (by simp [State.completePassed])
        (by simp [State.completePassed]) (by simp [State.completePassed]))
    · exact .refl
    · exact .refl
  · exact .refl

end Sys2Proof.Machine

/-! ## What a command can do to the command queue, the time base and the intake interface; and every command as moves
of the small blocks (R118, R147, R150, R151, R161). -/

namespace Sys2Proof.Machine

/-! ### What a command leaves alone of the links and the time base -/

/-- RESETN, IFRM, the intake interface, the command queue, the time base and the strobe that is due stand in `t` as in
`s`. -/
structure State.SameLinks (s t : State) : Prop where
  resetn : t.pins.resetn = s.pins.resetn
  ifrm : t.pins.ifrm = s.pins.ifrm
  intake : t.intake = s.intake
  commands : t.commands = s.commands
  timeBase : t.timeBase = s.timeBase
  strobeDue : t.serial.strobeDue = s.serial.strobeDue

theorem State.SameLinks.trans {s t u : State} (h : s.SameLinks t) (h' : t.SameLinks u) : s.SameLinks u :=
  ⟨h'.resetn.trans h.resetn, h'.ifrm.trans h.ifrm, h'.intake.trans h.intake, h'.commands.trans h.commands,
    h'.timeBase.trans h.timeBase, h'.strobeDue.trans h.strobeDue⟩

/-- Channel records, free cells and latched flags too. -/
structure State.SameBlocks (s t : State) : Prop extends s.SameLinks t where
  channels : t.channels = s.channels
  freeCells : t.freeCells = s.freeCells
  latched : t.health.latched = s.health.latched

theorem State.SameBlocks.trans {s t u : State} (h : s.SameBlocks t) (h' : t.SameBlocks u) : s.SameBlocks u :=
  ⟨h.toSameLinks.trans h'.toSameLinks, h'.channels.trans h.channels, h'.freeCells.trans h.freeCells,
    h'.latched.trans h.latched⟩

theorem State.reply_sameBlocks (s : State) (r : CmdRecord) (st : Status) (payload : List Byte) :
    s.SameBlocks (s.reply r st payload) := ⟨⟨rfl, rfl, rfl, rfl, rfl, rfl⟩, rfl, rfl, rfl⟩

theorem State.setBank_sameBlocks (s : State) (x : BankId) (b : Bank) : s.SameBlocks (s.setBank x b) :=
  ⟨⟨by simp, by simp, by simp, by simp, by simp, by simp⟩, by simp, by simp, by simp⟩

/-! ### The moves of the links and the time base -/

/-- One move: what one operation of the part does to command queue, intake interface and time base. A strobe is one move
from its begin to its end, because a load at its frame start (`b`) makes the count of its edge good at the end alone. -/
inductive LinkMove : State → State → Prop
  | same {s t : State} : s.SameLinks t → LinkMove s t
  | pop (s : State) {rest : List CmdRecord} : rest.Sublist s.commands → LinkMove s { s with commands := rest }
  | push (s : State) (r : CmdRecord) : s.commands.length < 8 → r.args.length ≤ 60 →
      LinkMove s { s with commands := s.commands ++ [r] }
  | load (s : State) (v : Option Time) : LinkMove s { s with timeBase := { s.timeBase with load := v } }
  | prescale (s : State) (p : Nat) : 1 ≤ p → p ≤ 65536 →
      LinkMove s { s with timeBase := s.timeBase.setPrescaler p }
  | advance (s : State) : LinkMove s s.advanceTime
  | edge (s : State) (order : EdgeOrder) : LinkMove s (s.refclkEdge order)
  | strobe {s t : State} (b : TimeBase) : b = s.timeBase ∨ b = s.timeBase.frameStart →
      s.SameLinks { t with timeBase := s.timeBase, serial := s.serial } → t.timeBase = b.takeEdge →
      t.serial.strobeDue = false → LinkMove s t
  | rewind (s : State) (latch : Time) : LinkMove s { s with timeBase := { TimeBase.reset with latch := latch } }
  | rise (s : State) : (s.pins.resetn = .high → s.intake.receiving = false) →
      LinkMove s { s with pins := { s.pins with ifrm := .high } }
  | complete (s : State) : LinkMove s { s with pins := { s.pins with ifrm := .high }, intake := .idle }
  | fall (s : State) : LinkMove s { s with pins := { s.pins with ifrm := .low } }
  | begin (s : State) : s.pins.resetn = .high →
      LinkMove s { s with pins := { s.pins with ifrm := .low }, intake := ⟨true, [], [], false⟩ }
  | receive (s : State) (bit : Bool) : s.intake.receiving = true →
      LinkMove s { s with intake := s.intake.receive bit }
  | assert (s : State) (lmode : Level) : LinkMove s (s.pinReset lmode)
  | release (s : State) : LinkMove s { s with pins := { s.pins with resetn := .high } }

/-- Any number of moves, one after another. -/
abbrev LinkMoves : State → State → Prop := Relation.ReflTransGen LinkMove

/-- What one move keeps, any number of moves keeps. -/
theorem LinkMoves.keeps {P : State → Prop} (hmove : ∀ s t, LinkMove s t → P s → P t) {s t : State}
    (h : LinkMoves s t) (hs : P s) : P t := by
  induction h with
  | refl => exact hs
  | tail _ hstep ih => exact hmove _ _ hstep ih

theorem LinkMoves.of_same {s t : State} (h : s.SameLinks t) : LinkMoves s t := .single (.same h)

/-- What a command does to the small blocks: moves of the channel store, and moves of the links and the time base. -/
structure BlockMoves (s t : State) : Prop where
  store : StoreMoves s t
  links : LinkMoves s t

theorem BlockMoves.trans {s t u : State} (h : BlockMoves s t) (h' : BlockMoves t u) : BlockMoves s u :=
  ⟨h.store.trans h'.store, h.links.trans h'.links⟩

theorem State.SameBlocks.moves {s t : State} (h : s.SameBlocks t) : BlockMoves s t :=
  ⟨.single (.same h.channels h.freeCells h.latched), LinkMoves.of_same h.toSameLinks⟩

theorem BlockMoves.refl (s : State) : BlockMoves s s := ⟨.refl, .refl⟩

/-- A move of the links that leaves the channel store. -/
theorem LinkMove.moves {s t : State} (h : LinkMove s t) (hc : t.channels = s.channels) (hn : t.freeCells = s.freeCells)
    (hl : t.health.latched = s.health.latched) : BlockMoves s t := ⟨.single (.same hc hn hl), .single h⟩

/-! ### Messages (R147, R162) -/

/-- A COMMAND that passes the checks has at most 60 argument bytes (R163). -/
theorem State.dispatch_linkMoves (s : State) {m : List Byte} {k : MessageKind} (h : lenAccepted k m = true) :
    LinkMoves s (s.dispatch m k) := by
  have harrive : ∀ c vs seq, LinkMoves s (s.arriveAll c seq vs) := by
    intro c vs seq
    obtain ⟨t, n, q, k, e⟩ := State.arriveAll_frame c vs s seq
    rw [e]
    exact LinkMoves.of_same ⟨rfl, rfl, rfl, rfl, rfl, rfl⟩
  cases k with
  | sample => exact harrive _ _ _
  | block => exact harrive _ _ _
  | command =>
    simp only [lenAccepted, Bool.and_eq_true, decide_eq_true_eq] at h
    simp only [State.dispatch, State.pushCommand]
    split
    · refine .single (.push s _ ‹_› ?_)
      rw [List.length_take]
      omega
    · exact LinkMoves.of_same ⟨rfl, rfl, rfl, rfl, rfl, rfl⟩

theorem judgeMessage_ok {i : Intake} {k : MessageKind} (h : judgeMessage i = .ok k) :
    lenAccepted k i.buffer = true := by
  unfold judgeMessage at h
  dsimp only at h
  split_ifs at h
  split at h
  · cases h
  · split_ifs at h with hlen
    cases h
    exact hlen

/-- IFRM rises at the end of a message: IDLE, and the message dispatched. -/
theorem State.completeMessage_linkMoves (s : State) :
    LinkMoves s ({ s with pins := { s.pins with ifrm := .high } } : State).completeMessage := by
  unfold State.completeMessage
  dsimp only
  split
  · exact .head (.complete s) (LinkMoves.of_same ⟨rfl, rfl, rfl, rfl, rfl, rfl⟩)
  · rename_i hk
    split
    · exact (State.dispatch_linkMoves _ (judgeMessage_ok hk)).head (.complete s)
    · exact .single (.complete s)

/-! ### Strobes (R46, R110, R121) -/

/-- The frame start loads the time base, and leaves the links. -/
theorem State.atWord_links (s : State) :
    (s.atWord.timeBase = s.timeBase ∨ s.atWord.timeBase = s.timeBase.frameStart)
    ∧ s.SameLinks { s.atWord with timeBase := s.timeBase, serial := s.serial } := by
  unfold State.atWord
  split
  · have htick : s.frameBegun.tick.timeBase = s.timeBase.frameStart
        ∧ s.SameLinks { s.frameBegun.tick with timeBase := s.timeBase, serial := s.serial } := by
      obtain ⟨q, h, e⟩ := s.frameBegun.tick_frame
      rw [e, s.frameBegun_eq]
      exact ⟨rfl, rfl, rfl, rfl, rfl, rfl, rfl⟩
    rw [s.frameStart_eq]
    split
    · obtain ⟨_, _, _, _, _, _, _, _, _, _, _, _, e⟩ := s.frameBegun.tick.carryOut_frame
      rw [e]
      exact ⟨.inr htick.1, ⟨htick.2.resetn, htick.2.ifrm, htick.2.intake, htick.2.commands, rfl, rfl⟩⟩
    · exact ⟨.inr htick.1, htick.2⟩
  · exact ⟨.inl rfl, ⟨rfl, rfl, rfl, rfl, rfl, rfl⟩⟩

theorem State.fetch_linkMove (s : State) : LinkMove s s.fetch.endStrobe := by
  obtain ⟨htime, hlinks⟩ := s.atWord_links
  obtain ⟨t, n, q, h, e⟩ := s.atWord.content_frame s.engine.place (s.atWord.slotAt s.engine.place)
  rw [s.fetch_eq, e]
  exact .strobe s.atWord.timeBase htime ⟨hlinks.resetn, hlinks.ifrm, hlinks.intake, hlinks.commands, rfl, rfl⟩ rfl rfl

theorem State.fetch_blockMoves (s : State) : BlockMoves s s.fetch.endStrobe :=
  ⟨s.fetch_storeMoves, .single s.fetch_linkMove⟩

theorem State.strobe_blockMoves (s : State) : BlockMoves s s.strobe := by
  refine ⟨s.strobe_storeMoves, ?_⟩
  unfold State.strobe
  split
  · split
    · exact .single s.fetch_linkMove
    · exact .single (.strobe s.timeBase (.inl rfl) ⟨rfl, rfl, rfl, rfl, rfl, rfl⟩ rfl rfl)
  · exact .single s.fetch_linkMove

theorem State.completeValidation_blockMoves (s : State) : BlockMoves s s.completeValidation := by
  refine ⟨s.completeValidation_storeMoves, LinkMoves.of_same ?_⟩
  have hpins := s.completeValidation_pins
  refine ⟨by rw [hpins], by rw [hpins], ?_, ?_, s.completeValidation_timeBase, by rw [s.completeValidation_serial]⟩
  all_goals
    unfold State.completeValidation
    split
    · split <;> simp [State.completeFound, State.completePassed]
    · rfl

theorem State.advanceTime_blockMoves (s : State) : BlockMoves s s.advanceTime :=
  LinkMove.moves (.advance s) rfl rfl rfl

theorem State.finishEdge_blockMoves (s : State) : BlockMoves s s.finishEdge := by
  have hdone := s.completeValidation_blockMoves.trans (State.advanceTime_blockMoves _)
  unfold State.finishEdge
  dsimp only
  split
  · exact (hdone.trans (State.strobe_blockMoves _)).trans (State.advanceTime_blockMoves _)
  · exact hdone.trans (State.advanceTime_blockMoves _)

theorem State.refclkEdge_blockMoves (s : State) (order : EdgeOrder) : BlockMoves s (s.refclkEdge order) := by
  refine LinkMove.moves (.edge s order) ?_ ?_ ?_ <;> simp [State.refclkEdge, s.validatePeriod_eq]

/-! ### The channel commands (R84 to R88, R144) -/

/-- A new record of the definition is defined, without samples, and in range (R84, R85). -/
structure Definition.InRange (d : Definition) : Prop where
  defined : d.keeping ≠ .undefined
  queue : d.record.queue = []
  withinLimit : d.record.withinLimit = true
  agesWell : d.record.agesWell = true

theorem Definition.InRange.of_latest {limit : Nat} (h : limit ≤ 254) (policy : StalePolicy) (notify : Bool)
    (fill : Sample) (check : Bool) :
    Definition.InRange ⟨.latest ⟨.never, 255, limit, policy, notify⟩, fill, check⟩ :=
  ⟨nofun, rfl, rfl, (Channel.agesWell_latest rfl).2 ⟨le_refl 255, h, fun _ => ⟨rfl, rfl⟩, nofun⟩⟩

theorem Definition.InRange.of_queued {limit : Nat} (h1 : 1 ≤ limit) (h255 : limit ≤ 255) (policy : OverflowPolicy)
    (fill : Sample) (check : Bool) : Definition.InRange ⟨.queued ⟨limit, policy, []⟩, fill, check⟩ :=
  ⟨nofun, rfl, (Channel.withinLimit_queued rfl).2 (Nat.zero_le _), (Channel.agesWell_queued rfl).2 ⟨h1, h255⟩⟩

/-- What passes the checks of DEFINE_CHANNEL is in range; a depth limit is one byte. -/
theorem definitionOf_inRange {args : List Byte} {d : Definition} (h : definitionOf args = some d) : d.InRange := by
  have hbyte : (byteAt args 3).toNat ≤ 255 := Nat.lt_succ_iff.1 (byteAt args 3).isLt
  unfold definitionOf at h
  dsimp only at h
  split_ifs at h <;> cases h
  · exact .of_latest ‹_› _ _ _ _
  · exact .of_latest ‹_› _ _ _ _
  · exact .of_queued ‹_› hbyte _ _ _
  · exact .of_queued ‹_› hbyte _ _ _

/-- A new record on a channel that can be defined; the samples of the old one return their cells. -/
theorem StoreMove.define {s : State} {c : Nat} {args : List Byte} {d : Definition} {cells : Nat}
    (hc : channelOk c = true) (hd : definitionOf args = some d)
    (hcells : cells = s.freeCells + (s.channel c).queue.length) :
    StoreMove s { s.setChannel c d.record with freeCells := cells } := by
  have hr := definitionOf_inRange hd
  exact .write cells (fun _ => hc) (fun hu => absurd hu hr.defined) ⟨fun _ => hr.withinLimit, fun _ => hr.agesWell⟩
    (by rw [hr.queue, hcells]; rfl)

/-- A same-kind redefinition of a LATEST channel (R86). -/
theorem Channel.redefineLatest_sameQueue {ch : Channel} {args : List Byte} {d : Definition} {old new : LatestPart}
    (hk : ch.keeping = .latest old) (hd : definitionOf args = some d) (hn : d.keeping = .latest new) :
    ch.SameQueue (ch.redefineLatest d old new) := by
  obtain ⟨-, hlimit, -, -⟩ := (Channel.agesWell_latest (ch := d.record) hn).1 (definitionOf_inRange hd).agesWell
  refine .of_latest hk rfl fun h => (Channel.agesWell_latest rfl).2 ?_
  obtain ⟨hage, -, hnever, hstale⟩ := (Channel.agesWell_latest hk).1 h
  exact ⟨hage, hlimit, fun hf => ⟨(hnever hf).1, if_pos hf⟩, hstale⟩

/-- A same-kind redefinition of a QUEUED channel (R86, R104). -/
theorem State.redefineQueued_storeMoves {s : State} {c : Nat} {args : List Byte} {d : Definition} {old new : QueuedPart}
    (hk : (s.channel c).keeping = .queued old) (hd : definitionOf args = some d) (hn : d.keeping = .queued new) :
    StoreMoves s (s.redefineQueued c (s.channel c) d old new) := by
  have hlimit := (Channel.agesWell_queued (ch := d.record) hn).1 (definitionOf_inRange hd).agesWell
  have hwrite : ∀ ch : Channel, ch.keeping = .queued { new with
      queue := old.queue.drop (trimCount old.queue new.limit) } →
      StoreMove s { s.setChannel c ch with freeCells := s.freeCells + trimCount old.queue new.limit } := by
    intro ch hch
    refine .write _ (by simp [hk]) (by simp [hch]) ⟨fun _ => ?_, fun _ => (Channel.agesWell_queued hch).2 hlimit⟩ ?_
    · rw [Channel.withinLimit_queued hch, List.length_drop]
      simp only [trimCount]
      omega
    · rw [Channel.queue_queued hch, Channel.queue_queued hk, List.length_drop]
      simp only [trimCount]
      omega
  unfold State.redefineQueued
  dsimp only
  split
  · exact .single (hwrite _ rfl)
  · exact StoreMoves.reported (.single (hwrite _ rfl))

theorem State.defineChannel_storeMoves (s : State) (r : CmdRecord) : StoreMoves s (s.defineChannel r) := by
  have hreply : ∀ {u : State} (st : Status), StoreMoves s u → StoreMoves s (u.reply r st []) := fun st h =>
    h.tail (.same rfl rfl rfl)
  unfold State.defineChannel
  dsimp only
  split
  · exact hreply .badArgument .refl
  rename_i hc
  have hc : channelOk (fieldAt r.args 0 2) = true := by simpa using hc
  split
  · exact hreply .badArgument .refl
  rename_i d hd
  split
  · rename_i hk
    exact hreply .ok (.single (.define hc hd (by simp [Channel.queue, hk])))
  · rename_i hk hn
    exact hreply .ok (.single (.rewrite (ne_of_eq_of_ne hk nofun) (Channel.redefineLatest_sameQueue hk hd hn)))
  · rename_i hk hn
    exact hreply .ok (State.redefineQueued_storeMoves hk hd hn)
  all_goals
    split
    · exact hreply .inUse .refl
    · exact hreply .ok (.single (.define hc hd rfl))

theorem State.undefineChannel_storeMoves (s : State) (r : CmdRecord) : StoreMoves s (s.undefineChannel r) := by
  unfold State.undefineChannel
  dsimp only
  split
  · exact .single (.same rfl rfl rfl)
  split
  · exact .single (.same rfl rfl rfl)
  rename_i hk
  split
  · exact .single (.same rfl rfl rfl)
  · have hblank : StoreMove s (s.replaceChannel (fieldAt r.args 0 2) .blank) :=
      .write _ (fun h => absurd h hk) (fun _ => rfl) ⟨fun _ => rfl, fun _ => rfl⟩ rfl
    exact .tail (.single hblank) (.same rfl rfl rfl)

theorem State.clearCounters_storeMoves (s : State) (r : CmdRecord) : StoreMoves s (s.clearCounters r) := by
  unfold State.clearCounters
  dsimp only
  split
  · exact .single (.same rfl rfl rfl)
  · split
    · exact .single (.same rfl rfl rfl)
    split
    · exact .single (.same rfl rfl rfl)
    · rename_i hk
      have hclear : StoreMove s (s.setChannel (fieldAt r.args 1 2) (s.channel (fieldAt r.args 1 2)).clearCounters) :=
        .rewrite hk (.of_keeping rfl rfl rfl)
      exact .tail (.single hclear) (.same rfl rfl rfl)
  · exact .single (.each (fun _ ch => ch.clearCounters) (fun _ _ => .of_keeping rfl rfl rfl) rfl rfl rfl)
  · exact .single (.same rfl rfl rfl)

theorem State.defineChannel_sameLinks (s : State) (r : CmdRecord) : s.SameLinks (s.defineChannel r) := by
  have hredefine : ∀ c ch d old new, s.SameLinks (s.redefineQueued c ch d old new) := by
    intro c ch d old new
    unfold State.redefineQueued
    dsimp only
    split <;> exact ⟨rfl, rfl, rfl, rfl, rfl, rfl⟩
  unfold State.defineChannel
  dsimp only
  split
  · exact ⟨rfl, rfl, rfl, rfl, rfl, rfl⟩
  split
  · exact ⟨rfl, rfl, rfl, rfl, rfl, rfl⟩
  split
  · exact ⟨rfl, rfl, rfl, rfl, rfl, rfl⟩
  · exact ⟨rfl, rfl, rfl, rfl, rfl, rfl⟩
  · exact (hredefine _ _ _ _ _).trans (State.reply_sameBlocks _ r _ _).toSameLinks
  all_goals split <;> exact ⟨rfl, rfl, rfl, rfl, rfl, rfl⟩

theorem State.undefineChannel_sameLinks (s : State) (r : CmdRecord) : s.SameLinks (s.undefineChannel r) := by
  unfold State.undefineChannel
  dsimp only
  split_ifs <;> exact ⟨rfl, rfl, rfl, rfl, rfl, rfl⟩

theorem State.clearCounters_sameLinks (s : State) (r : CmdRecord) : s.SameLinks (s.clearCounters r) := by
  unfold State.clearCounters
  dsimp only
  split
  · exact ⟨rfl, rfl, rfl, rfl, rfl, rfl⟩
  · split_ifs <;> exact ⟨rfl, rfl, rfl, rfl, rfl, rfl⟩
  · exact ⟨rfl, rfl, rfl, rfl, rfl, rfl⟩
  · exact ⟨rfl, rfl, rfl, rfl, rfl, rfl⟩

/-! ### The other takes (R150, R151) -/

theorem State.edit_sameBlocks (s : State) (r : CmdRecord) (change : Bank → Option Bank) :
    s.SameBlocks (s.edit r change) := by
  unfold State.edit
  split
  · exact s.reply_sameBlocks r _ _
  split
  · exact s.reply_sameBlocks r _ _
  · exact s.reply_sameBlocks r _ _
  · exact ⟨⟨rfl, rfl, rfl, rfl, rfl, rfl⟩, rfl, rfl, rfl⟩
  split
  · exact s.reply_sameBlocks r _ _
  · exact (s.setBank_sameBlocks _ _).trans (State.reply_sameBlocks _ r _ _)

theorem State.readChannel_sameBlocks (s : State) (r : CmdRecord) : s.SameBlocks (s.readChannel r) := by
  unfold State.readChannel
  dsimp only
  split_ifs <;> exact s.reply_sameBlocks r _ _

theorem State.readBank_sameBlocks (s : State) (r : CmdRecord) : s.SameBlocks (s.readBank r) := by
  unfold State.readBank
  split
  · exact s.reply_sameBlocks r _ _
  split <;> exact s.reply_sameBlocks r _ _

theorem State.readCounters_sameBlocks (s : State) (r : CmdRecord) : s.SameBlocks (s.readCounters r) := by
  unfold State.readCounters
  dsimp only
  split_ifs <;> exact ⟨⟨rfl, rfl, rfl, rfl, rfl, rfl⟩, rfl, rfl, rfl⟩

theorem State.switch_sameBlocks (s : State) (r : CmdRecord) : s.SameBlocks (s.switch r) := by
  unfold State.switch
  split
  · exact s.reply_sameBlocks r _ _
  · split_ifs
    · exact s.reply_sameBlocks r _ _
    · exact s.reply_sameBlocks r _ _
    · exact s.reply_sameBlocks r _ _
    · exact ⟨⟨by simp, by simp, by simp, by simp, by simp, by simp⟩, by simp, by simp, by simp⟩

/-- A cancellation writes the pending pins (R62, R64). -/
theorem State.cancelSwitch_blockMoves (s : State) (x : BankId) (tag : Byte) : BlockMoves s (s.cancelSwitch x tag) := by
  constructor
  · exact .single (.pins (fun _ a => a) (fun c p => p && !s.engine.pendingRefs.contains c)
      (by simp [State.cancelSwitch]) (by simp [State.cancelSwitch]) (by simp [State.cancelSwitch]))
  · refine LinkMoves.of_same ?_
    constructor <;> simp [State.cancelSwitch]

theorem State.stop_blockMoves (s : State) (r : CmdRecord) : BlockMoves s (s.stop r) := by
  have hpending : ∀ (u : State), u.SameBlocks (u.makeStopPending r.tag) := fun u =>
    ⟨⟨rfl, rfl, rfl, rfl, rfl, rfl⟩, rfl, rfl, rfl⟩
  unfold State.stop
  split
  · exact (s.reply_sameBlocks r _ _).moves
  · exact (s.cancelSwitch_blockMoves _ _).trans (State.reply_sameBlocks _ r _ _).moves
  · exact (hpending s).moves
  · exact (s.cancelSwitch_blockMoves _ _).trans (hpending _).moves
  · exact (s.reply_sameBlocks r _ _).moves
  · exact (s.reply_sameBlocks r _ _).moves

theorem natOfBytes_lt (bs : List Byte) : natOfBytes bs < 256 ^ bs.length := by
  induction bs with
  | nil => simp [natOfBytes]
  | cons b bs ih =>
    have hb := b.isLt
    rw [natOfBytes_cons, List.length_cons, pow_succ]
    nlinarith

/-- A field of two bytes, as SET_TIMEBASE carries P - 1 (R119). -/
theorem fieldAt_two_lt (bs : List Byte) (off : Nat) : fieldAt bs off 2 < 65536 :=
  calc fieldAt bs off 2 < 256 ^ ((bs.drop off).take 2).length := natOfBytes_lt _
    _ ≤ 256 ^ 2 := Nat.pow_le_pow_right (by decide) (List.length_take_le 2 _)

/-- The owner blocks of the catalogue. -/
theorem Command.owner_blockMoves (c : Command) (r : CmdRecord) (s : State) : BlockMoves s (c.owner r s) := by
  cases c with
  | resetPart => exact .refl s
  | ping => exact (s.reply_sameBlocks r _ _).moves
  | defineChannel => exact ⟨s.defineChannel_storeMoves r, LinkMoves.of_same (s.defineChannel_sameLinks r)⟩
  | undefineChannel => exact ⟨s.undefineChannel_storeMoves r, LinkMoves.of_same (s.undefineChannel_sameLinks r)⟩
  | clearCounters => exact ⟨s.clearCounters_storeMoves r, LinkMoves.of_same (s.clearCounters_sameLinks r)⟩
  | setFrame | writeSlots | writeRotation | writePicks | clearBank =>
    rw [Command.owner_of_edits rfl]
    exact (s.edit_sameBlocks r _).moves
  | readChannel => exact (s.readChannel_sameBlocks r).moves
  | readBank => exact (s.readBank_sameBlocks r).moves
  | readCounters => exact (s.readCounters_sameBlocks r).moves
  | switch => exact (s.switch_sameBlocks r).moves
  | stop => exact s.stop_blockMoves r
  | setTime =>
    exact (LinkMove.moves (.load s (some (BitVec.ofNat 48 (fieldAt r.args 0 6)))) rfl rfl rfl).trans
      (State.reply_sameBlocks _ r _ _).moves
  | setTimebase =>
    have hp := fieldAt_two_lt r.args 0
    exact (LinkMove.moves (.prescale s (fieldAt r.args 0 2 + 1) (by omega) (by omega)) rfl rfl rfl).trans
      (State.reply_sameBlocks _ r _ _).moves

/-- The record leaves the command queue (R151). -/
theorem State.beginTake_blockMoves (s : State) (r : CmdRecord) : BlockMoves s (s.beginTake r) := by
  have hpop : BlockMoves s { s with commands := s.commands.tail } :=
    LinkMove.moves (.pop s (List.tail_sublist _)) rfl rfl rfl
  have hreserve : ({ s with commands := s.commands.tail } : State).SameBlocks (s.beginTake r) := by
    refine ⟨⟨?_, ?_, ?_, ?_, ?_, ?_⟩, ?_, ?_, ?_⟩ <;> simp
  exact hpop.trans hreserve.moves

/-! ### Resets (R66, R109, R158, R159) -/

theorem State.ready_blockMoves (s : State) (cause : ResetCause) : BlockMoves s (s.ready cause) :=
  ⟨StoreMoves.notice s _ _, LinkMoves.of_same ⟨by simp [State.ready], by simp [State.ready], by simp [State.ready],
    by simp [State.ready], by simp [State.ready], by simp [State.ready]⟩⟩

theorem State.pinReset_blockMoves (s : State) (lmode : Level) : BlockMoves s (s.pinReset lmode) :=
  ⟨.single (.clear rfl rfl rfl), .single (.assert s lmode)⟩

theorem State.releaseReset_blockMoves (s : State) (lmode adr1 adr0 : Level) :
    BlockMoves s (s.releaseReset lmode adr1 adr0) := by
  have hrelease : BlockMoves s { s with pins := { s.pins with resetn := .high } } :=
    LinkMove.moves (.release s) rfl rfl rfl
  unfold State.releaseReset
  refine BlockMoves.trans ?_ (State.ready_blockMoves _ .pin)
  exact hrelease.trans (State.SameBlocks.moves ⟨⟨rfl, rfl, rfl, rfl, rfl, rfl⟩, rfl, rfl, rfl⟩)

theorem State.restart_blockMoves (s : State) : BlockMoves s s.restart := by
  refine BlockMoves.trans ⟨.single (.restart rfl rfl rfl), ?_⟩ (State.ready_blockMoves _ .restart)
  have hpop : LinkMove s { s with commands := [] } := .pop s (List.nil_sublist _)
  exact ((Relation.ReflTransGen.single hpop).tail (.load _ none)).trans
    (LinkMoves.of_same ⟨rfl, rfl, rfl, rfl, rfl, rfl⟩)

theorem State.fullReset_blockMoves (s : State) : BlockMoves s s.fullReset := by
  refine BlockMoves.trans ⟨.single (.clear rfl rfl rfl), ?_⟩ (State.ready_blockMoves _ .full)
  have hpop : LinkMove s { s with commands := [] } := .pop s (List.nil_sublist _)
  exact ((Relation.ReflTransGen.single hpop).tail (.rewind _ s.timeBase.latch)).trans
    (LinkMoves.of_same ⟨rfl, rfl, rfl, rfl, rfl, rfl⟩)

/-! ### What one command can do to the small blocks -/

/-- A take of any sort: the record leaves the queue and its owner block acts, or nothing changes. -/
theorem State.take_blockMoves {s t : State} {want : CmdRecord → Bool} {act : CmdRecord → State → State}
    (hact : ∀ r u, BlockMoves u (act r u)) (h : s.take want act = .next t) : BlockMoves s t := by
  rcases s.take_cases want act with ⟨r, -, -, e⟩ | e <;> cases e.symm.trans h
  · exact (s.beginTake_blockMoves r).trans (hact r _)
  · exact .refl s

/-- Every command of the table is moves of the small blocks. -/
theorem exec_blockMoves {i : Instr} {s t : State} (h : exec i s = .next t) : BlockMoves s t := by
  cases hrow : catalogued i with
  | some c =>
    rw [exec_row (row_of_catalogued hrow), State.takeCommand] at h
    refine State.take_blockMoves (fun r u => ?_) h
    split
    · exact c.owner_blockMoves r u
    · exact (u.reply_sameBlocks r _ _).moves
  | none =>
  cases i with
  | unknownCommand => exact State.take_blockMoves (fun r u => (u.reply_sameBlocks r _ _).moves) h
  | resetPartRefused =>
    simp only [exec, execResetPartRefused] at h
    refine State.take_blockMoves (fun r u => ?_) h
    split <;> exact (u.reply_sameBlocks r _ _).moves
  | resetPartRestart => exact State.take_blockMoves (fun _ u => u.restart_blockMoves) h
  | resetPartFull => exact State.take_blockMoves (fun _ u => u.fullReset_blockMoves) h
  | pinResetAssert lmode =>
    cases h
    exact s.pinReset_blockMoves lmode
  | pinResetRelease lmode adr1 adr0 =>
    simp only [exec, execPinResetRelease] at h
    split at h <;> cases h
    · exact s.releaseReset_blockMoves lmode adr1 adr0
    · exact .refl s
  | messageCompletion =>
    simp only [exec, execMessageCompletion] at h
    split at h <;> cases h
    · have hrise : StoreMove s { s with pins := { s.pins with ifrm := .high } } := .same rfl rfl rfl
      exact ⟨.head hrise (State.completeMessage_storeMoves _), s.completeMessage_linkMoves⟩
    · rename_i hidle
      exact LinkMove.moves (.rise s (by simpa using hidle)) rfl rfl rfl
  | ifrmFall =>
    simp only [exec, execIfrmFall] at h
    split at h
    · cases h
      exact .refl s
    · split at h <;> cases h
      · rename_i hbegin
        exact LinkMove.moves (.begin s hbegin.1) rfl rfl rfl
      · exact LinkMove.moves (.fall s) rfl rfl rfl
  | iclkRisingEdge idat =>
    simp only [exec, execIclkRisingEdge] at h
    split at h <;> cases h
    · rename_i hreceiving
      exact LinkMove.moves (.receive s _ hreceiving.2) rfl rfl rfl
    · exact .refl s
  | wordFetch =>
    simp only [exec, execWordFetch] at h
    split at h <;> cases h
    · exact s.fetch_blockMoves
    · exact .refl s
  | bitStrobe =>
    simp only [exec, execBitStrobe] at h
    split at h <;> cases h
    · exact s.strobe_blockMoves
    · exact .refl s
  | timeCounterAdvance =>
    cases h
    exact s.advanceTime_blockMoves
  | validationCompletion =>
    cases h
    exact s.completeValidation_blockMoves
  | refclkRisingEdge order =>
    simp only [exec, execRefclkRisingEdge] at h
    split at h <;> cases h
    · exact s.finishEdge_blockMoves.trans (State.refclkEdge_blockMoves _ order)
    · exact .refl s
  | _ => cases hrow

/-- What every move of the channel store keeps, every step keeps. -/
theorem step_keeps_of_storeMove {P : State → Prop} (hpending : ∀ (s : State) (rest : List Instr), P s →
    P { s with pending := rest }) (hmove : ∀ s t, StoreMove s t → P s → P t) {s t : State} (h : step s = .next t)
    (hs : P s) : P t :=
  step_keeps hpending (fun _ _ _ h hs => (exec_blockMoves h).store.keeps hmove hs) h hs

/-- What every move of the links and the time base keeps, every step keeps. -/
theorem step_keeps_of_linkMove {P : State → Prop} (hpending : ∀ (s : State) (rest : List Instr), P s →
    P { s with pending := rest }) (hmove : ∀ s t, LinkMove s t → P s → P t) {s t : State} (h : step s = .next t)
    (hs : P s) : P t :=
  step_keeps hpending (fun _ _ _ h hs => (exec_blockMoves h).links.keeps hmove hs) h hs

end Sys2Proof.Machine

/-! ## Every step keeps free cells plus queue lengths at 2048 (R69, R93). -/

namespace Sys2Proof.Machine

/-! ### The sum of the queue lengths -/

theorem queuedTotal_cons (k : Nat) (ch : Channel) (t : Table Channel) :
    queuedTotal ((k, ch) :: t) = ch.queue.length + queuedTotal t := by
  simp [queuedTotal]

/-- An entry in front adds its queue; an UNDEFINED one that is not listed has none. -/
theorem queuedTotal_tableCons (c : Nat) (ch : Channel) (t : Table Channel) :
    queuedTotal (Table.cons .blank c ch t) = ch.queue.length + queuedTotal t := by
  unfold Table.cons
  split
  · subst_vars
    simp [Channel.blank, Channel.queue]
  · exact queuedTotal_cons c ch t

/-- A write exchanges the queue at its number. -/
theorem queuedTotal_put {lo : Nat} {t : Table Channel} (hw : Table.wfFrom .blank lo t = true) (c : Nat) (ch : Channel) :
    queuedTotal (Table.put .blank t c ch) + (Table.get .blank t c).queue.length = queuedTotal t + ch.queue.length := by
  induction t generalizing lo with
  | nil =>
    rw [Table.put, queuedTotal_tableCons]
    exact Nat.add_comm _ _
  | cons e t ih =>
    obtain ⟨k, old⟩ := e
    obtain ⟨-, -, hw'⟩ := Table.wfFrom_cons_iff.1 hw
    unfold Table.put
    split
    · rename_i hlt
      have hnone : Table.get Channel.blank ((k, old) :: t) c = .blank := by
        rw [Table.get, if_neg (by omega), Table.get_of_lt hw' (by omega)]
      rw [hnone, queuedTotal_tableCons, Nat.add_comm ch.queue.length]
      rfl
    · split
      · rename_i hk
        rw [queuedTotal_tableCons, queuedTotal_cons, Table.get, if_pos hk.symm]
        omega
      · rename_i hk
        have := ih hw'
        rw [queuedTotal_cons, queuedTotal_cons, Table.get, if_neg (Ne.symm hk)]
        omega

/-- A change of every record that leaves the queues. -/
theorem queuedTotal_update {f : Nat → Channel → Channel} (hf : ∀ c (ch : Channel), (f c ch).queue = ch.queue)
    (t : Table Channel) : queuedTotal (Table.update f t) = queuedTotal t := by
  simp [queuedTotal, Table.update, Function.comp_def, hf]

theorem Channel.restart_queue (ch : Channel) : ch.restart.queue = [] := by
  cases hk : ch.keeping <;> simp [Channel.restart, Channel.queue, hk]

theorem queuedTotal_restart (t : Table Channel) : queuedTotal (Table.update (fun _ ch => ch.restart) t) = 0 := by
  simp [queuedTotal, Table.update, Function.comp_def, Channel.restart_queue]

/-! ### The pool under the moves of the channel store -/

/-- What the pool's claims say of every channel, listed or not. -/
theorem State.PoolInv.channel {s : State} (hs : s.PoolInv) (c : Nat) :
    ((s.channel c).keeping ≠ .undefined → channelOk c = true) ∧ (s.channel c).withinLimit = true := by
  obtain ⟨-, hlisted, -⟩ := hs
  rcases Table.get_mem_or (d := .blank) s.channels c with hmem | hblank
  · obtain ⟨hc, -, hlimit⟩ := hlisted _ hmem
    exact ⟨fun _ => hc, hlimit⟩
  · rw [State.channel, hblank]
    exact ⟨fun h => absurd rfl h, rfl⟩

theorem Channel.restart_undefined (ch : Channel) : ch.restart.keeping = .undefined ↔ ch.keeping = .undefined := by
  cases hk : ch.keeping <;> simp [Channel.restart, hk]

theorem Channel.restart_withinLimit (ch : Channel) : ch.restart.withinLimit = true := by
  cases hk : ch.keeping <;> simp [Channel.restart, Channel.withinLimit, hk]

/-- A change of every record that keeps who is defined keeps the table canonical and its channels in range. -/
theorem State.PoolInv.update {s : State} (hs : s.PoolInv) {f : Nat → Channel → Channel}
    (hk : ∀ c ch, (f c ch).keeping = .undefined ↔ ch.keeping = .undefined)
    (hlimit : ∀ c (ch : Channel), ch.withinLimit = true → (f c ch).withinLimit = true) :
    Table.wf .blank (Table.update f s.channels) = true
    ∧ ∀ e ∈ Table.update f s.channels, channelOk e.1 = true ∧ e.2.keeping ≠ .undefined ∧ e.2.withinLimit = true := by
  obtain ⟨hw, hlisted, -⟩ := hs
  refine ⟨Table.wf_update hw fun e he hblank => ?_, fun e' he' => ?_⟩
  · obtain ⟨-, hdefined, -⟩ := hlisted e he
    exact hdefined ((hk e.1 e.2).1 (congrArg Channel.keeping hblank))
  · obtain ⟨e, he, rfl⟩ := List.mem_map.1 he'
    obtain ⟨hc, hdefined, hold⟩ := hlisted e he
    exact ⟨hc, fun h => hdefined ((hk e.1 e.2).1 h), hlimit e.1 e.2 hold⟩

theorem StoreMove.poolInv {s t : State} (h : StoreMove s t) (hs : s.PoolInv) : t.PoolInv := by
  cases h with
  | same hc hn _ => rwa [State.PoolInv, hc, hn]
  | flag | clearFlags => exact hs
  | @write c ch cells hc hblank hrange hcells =>
    obtain ⟨hw, hlisted, htotal⟩ := hs
    obtain ⟨hok, hlimit⟩ := State.PoolInv.channel ⟨hw, hlisted, htotal⟩ c
    refine ⟨Table.wf_put hw, fun e he => ?_, ?_⟩
    · obtain ⟨hne, -⟩ := (Table.mem_iff (Table.wf_put hw)).1 he
      rcases Table.mem_put he with hmem | rfl
      · exact hlisted e hmem
      · exact ⟨(em _).elim hc hok, fun hk => hne (hblank hk), hrange.withinLimit hlimit⟩
    · have := queuedTotal_put hw c ch
      simp only [State.setChannel_channels, State.channel] at hcells ⊢
      omega
  | each f hf hc hn _ =>
    obtain ⟨hw, hlisted⟩ := hs.update (fun c ch => (hf c ch).undefined) (fun c ch => (hf c ch).withinLimit)
    obtain ⟨-, -, htotal⟩ := hs
    rw [State.PoolInv, hc, hn, queuedTotal_update fun c ch => (hf c ch).queue]
    exact ⟨hw, hlisted, htotal⟩
  | restart hc hn _ =>
    obtain ⟨hw, hlisted⟩ := hs.update (fun _ => Channel.restart_undefined) (fun _ ch _ => ch.restart_withinLimit)
    rw [State.PoolInv, hc, hn, queuedTotal_restart]
    exact ⟨hw, hlisted, rfl⟩
  | clear hc hn _ =>
    rw [State.PoolInv, hc, hn]
    exact ⟨rfl, nofun, rfl⟩

/-- Settles O52: every command is moves of the channel store, and each move that takes or returns cells writes a queue
that is longer or shorter by as many samples. -/
theorem stepsKeepThePool : Obligations.StepsKeepThePool := by
  intro s t h hs
  exact step_keeps_of_storeMove (fun _ _ hs => hs) (fun _ _ => StoreMove.poolInv) h hs

end Sys2Proof.Machine

/-! ## Every step keeps freshness, latched flags, command queue, time base and intake interface in range (R70, R77,
R118, R136, R147, R161). -/

namespace Sys2Proof.Machine

/-! ### Ages and latched flags -/

/-- A RESTART puts a LATEST channel to NEVER, its latest cell at the fill value (R91). -/
theorem Channel.restart_agesWell {ch : Channel} (h : ch.agesWell = true) : ch.restart.agesWell = true := by
  cases hk : ch.keeping with
  | undefined => simpa [Channel.restart, hk] using h
  | latest p =>
    have hr : ch.restart.keeping = .latest { p with freshness := .never, age := 255 } := by simp [Channel.restart, hk]
    obtain ⟨-, hlimit, -, -⟩ := (Channel.agesWell_latest hk).1 h
    refine (Channel.agesWell_latest hr).2 ⟨le_refl 255, hlimit, fun _ => ⟨rfl, ?_⟩, nofun⟩
    simp [Channel.restart, hk]
  | queued p =>
    have hr : ch.restart.keeping = .queued { p with queue := [] } := by simp [Channel.restart, hk]
    exact (Channel.agesWell_queued hr).2 ((Channel.agesWell_queued hk).1 h)

theorem StoreMove.freshnessInv {s t : State} (h : StoreMove s t) (hs : s.FreshnessInv) : t.FreshnessInv := by
  cases h with
  | same hc _ _ => rwa [State.FreshnessInv, hc]
  | flag | clearFlags => exact hs
  | @write c ch cells _ _ hrange _ =>
    intro e he
    rcases Table.mem_put he with hmem | rfl
    · exact hs e hmem
    · exact hrange.agesWell (State.FreshnessInv.agesWell hs c)
  | each f hf hc _ _ =>
    rw [State.FreshnessInv, hc]
    intro e' he'
    obtain ⟨e, he, rfl⟩ := List.mem_map.1 he'
    exact (hf e.1 e.2).agesWell (hs e he)
  | restart hc _ _ =>
    rw [State.FreshnessInv, hc]
    intro e' he'
    obtain ⟨e, he, rfl⟩ := List.mem_map.1 he'
    exact Channel.restart_agesWell (hs e he)
  | clear hc _ _ =>
    rw [State.FreshnessInv, hc]
    exact nofun

/-- Every flag has its position among the nine (R136). -/
theorem LatchedFlag.bit_and_latchedPositions (f : LatchedFlag) :
    BitVec.ofNat 16 (2 ^ f.position) &&& latchedPositions = BitVec.ofNat 16 (2 ^ f.position) := by
  cases f <;> decide

theorem StoreMove.healthInv {s t : State} (h : StoreMove s t) (hs : s.HealthInv) : t.HealthInv := by
  cases h with
  | same _ _ hl => rwa [State.HealthInv, hl]
  | write => exact hs
  | each _ _ _ _ hl => rwa [State.HealthInv, hl]
  | flag f =>
    simp only [State.HealthInv, State.setFlag_health, Health.set, BitVec.and_or_distrib_right,
      f.bit_and_latchedPositions] at hs ⊢
    rw [hs]
  | clearFlags width =>
    simp only [State.HealthInv, Health.clearCarried] at hs ⊢
    rw [BitVec.and_assoc, BitVec.and_comm _ latchedPositions, ← BitVec.and_assoc, hs]
  | restart _ _ hl | clear _ _ hl =>
    rw [State.HealthInv, hl]
    decide

/-! ### Command queue (R147) -/

theorem LinkMove.commandInv {s t : State} (h : LinkMove s t) (hs : s.CommandInv) : t.CommandInv := by
  obtain ⟨hlen, hargs⟩ := hs
  cases h with
  | same h => exact ⟨h.commands ▸ hlen, h.commands ▸ hargs⟩
  | strobe b _ h _ _ => exact ⟨h.commands ▸ hlen, h.commands ▸ hargs⟩
  | pop hsub => exact ⟨hsub.length_le.trans hlen, fun r hr => hargs r (hsub.subset hr)⟩
  | push r hfree hr =>
    refine ⟨?_, fun r' hr' => ?_⟩
    · rw [List.length_append]
      exact hfree
    · rcases List.mem_append.1 hr' with hold | hnew
      · exact hargs r' hold
      · exact List.mem_singleton.1 hnew ▸ hr
  | edge order =>
    have hsame : (s.refclkEdge order).commands = s.commands := by simp [State.refclkEdge, s.validatePeriod_eq]
    exact ⟨hsame ▸ hlen, hsame ▸ hargs⟩
  | assert => exact ⟨Nat.zero_le 8, nofun⟩
  | load | prescale | advance | rewind | rise | complete | fall | begin | receive | release => exact ⟨hlen, hargs⟩

/-! ### Time base (R118) -/

/-- P and the count in range, and an advance due only where the count completes P. -/
structure TimeBase.InRange (t : TimeBase) : Prop where
  one_le : 1 ≤ t.prescaler
  le_max : t.prescaler ≤ 65536
  count_lt : t.count < t.prescaler
  completes : t.edge = .advanceDue → t.count + 1 = t.prescaler

theorem State.timeInv_iff (s : State) :
    s.TimeInv ↔ s.timeBase.InRange ∧ (s.timeBase.edge = .afterStrobe → s.serial.strobeDue = true) := by
  constructor
  · rintro ⟨h1, h2, h3, h4, h5⟩
    exact ⟨⟨h1, h2, h3, h4⟩, h5⟩
  · rintro ⟨⟨h1, h2, h3, h4⟩, h5⟩
    exact ⟨h1, h2, h3, h4, h5⟩

/-- The count of an edge puts the time base in range, where P and the count were: at P - 1 the advance is due. -/
theorem TimeBase.takeEdge_inRange {t : TimeBase} (h1 : 1 ≤ t.prescaler) (h2 : t.prescaler ≤ 65536)
    (h3 : t.count < t.prescaler) : t.takeEdge.InRange := by
  by_cases he : t.edge = .taken
  · have hsame : t.takeEdge = t := by simp [TimeBase.takeEdge, he]
    rw [hsame]
    exact ⟨h1, h2, h3, fun h => absurd (he.symm.trans h) nofun⟩
  · rw [TimeBase.takeEdge_eq he]
    split
    · exact ⟨h1, h2, ‹_›, nofun⟩
    · exact ⟨h1, h2, h3, fun _ => by dsimp only; omega⟩

theorem TimeBase.InRange.takeEdge {t : TimeBase} (h : t.InRange) : t.takeEdge.InRange :=
  TimeBase.takeEdge_inRange h.one_le h.le_max h.count_lt

/-- A frame start may return the count to 0 (R121); with the count of the edge the time base is in range again. -/
theorem TimeBase.InRange.frameStart_takeEdge {t : TimeBase} (h : t.InRange) : t.frameStart.takeEdge.InRange := by
  have hstart : t.frameStart.prescaler = t.prescaler ∧ t.frameStart.count ≤ t.count := by
    unfold TimeBase.frameStart
    split
    · exact ⟨rfl, Nat.zero_le _⟩
    · exact ⟨rfl, le_refl _⟩
  obtain ⟨hp, hcount⟩ := hstart
  exact TimeBase.takeEdge_inRange (hp ▸ h.one_le) (hp ▸ h.le_max) (by have := h.count_lt; omega)

theorem TimeBase.InRange.advance {t : TimeBase} (h : t.InRange) : t.advance.InRange := by
  unfold TimeBase.advance
  split
  · exact ⟨h.one_le, h.le_max, h.one_le, nofun⟩
  · exact h
  · exact h

/-- SET_TIMEBASE: an edge whose advance was due counts 1 under the new P, which may complete it (R119). -/
theorem TimeBase.setPrescaler_inRange (t : TimeBase) {p : Nat} (h1 : 1 ≤ p) (h2 : p ≤ 65536) :
    (t.setPrescaler p).InRange := by
  cases he : t.edge with
  | advanceDue =>
    have hset : t.setPrescaler p = { t with prescaler := p, count := 0 }.takeEdge := by simp [TimeBase.setPrescaler, he]
    rw [hset]
    exact TimeBase.takeEdge_inRange h1 h2 h1
  | taken | afterStrobe =>
    have hset : t.setPrescaler p = { t with prescaler := p, count := 0 } := by simp [TimeBase.setPrescaler, he]
    rw [hset]
    exact ⟨h1, h2, h1, fun h => absurd (he.symm.trans h) nofun⟩

theorem TimeBase.setPrescaler_afterStrobe {t : TimeBase} {p : Nat} (h : (t.setPrescaler p).edge = .afterStrobe) :
    t.edge = .afterStrobe := by
  unfold TimeBase.setPrescaler at h
  dsimp only at h
  split at h
  · exact absurd h (TimeBase.takeEdge_edge _)
  · exact h
  · exact h

theorem TimeBase.advance_afterStrobe {t : TimeBase} (h : t.advance.edge = .afterStrobe) : t.edge = .afterStrobe :=
  by_contra fun hne => TimeBase.advance_edge_ne_afterStrobe hne h

/-- The count of an edge is left to a strobe only where the edge makes one (R121). -/
theorem State.refclkEdge_timeBase (s : State) (order : EdgeOrder) : (s.refclkEdge order).timeBase =
    if order = .strobeFirst ∧ (s.refclkEdge order).serial.strobeDue = true
      then { s.timeBase with edge := .afterStrobe } else { s.timeBase with edge := .advanceDue }.takeEdge := rfl

theorem State.refclkEdge_timeInv {s : State} (order : EdgeOrder) (hs : s.TimeInv) : (s.refclkEdge order).TimeInv := by
  obtain ⟨hrange, -⟩ := s.timeInv_iff.1 hs
  rw [State.timeInv_iff, State.refclkEdge_timeBase]
  split
  · rename_i hstrobe
    exact ⟨⟨hrange.one_le, hrange.le_max, hrange.count_lt, nofun⟩, fun _ => hstrobe.2⟩
  · exact ⟨TimeBase.takeEdge_inRange hrange.one_le hrange.le_max hrange.count_lt,
      fun h => absurd h (TimeBase.takeEdge_edge _)⟩

theorem LinkMove.timeInv {s t : State} (h : LinkMove s t) (hs : s.TimeInv) : t.TimeInv := by
  obtain ⟨hrange, hafter⟩ := s.timeInv_iff.1 hs
  rw [State.timeInv_iff]
  cases h with
  | same h =>
    rw [h.timeBase, h.strobeDue]
    exact ⟨hrange, hafter⟩
  | load v => exact ⟨⟨hrange.one_le, hrange.le_max, hrange.count_lt, hrange.completes⟩, hafter⟩
  | prescale p h1 h2 =>
    exact ⟨s.timeBase.setPrescaler_inRange h1 h2, fun h => hafter (TimeBase.setPrescaler_afterStrobe h)⟩
  | advance => exact ⟨hrange.advance, fun h => hafter (TimeBase.advance_afterStrobe h)⟩
  | edge order => exact (State.timeInv_iff _).1 (State.refclkEdge_timeInv order hs)
  | strobe b hb _ htime _ =>
    rw [htime]
    refine ⟨?_, fun h => absurd h (TimeBase.takeEdge_edge b)⟩
    rcases hb with rfl | rfl
    · exact hrange.takeEdge
    · exact hrange.frameStart_takeEdge
  | rewind | assert => exact ⟨⟨le_refl 1, Nat.one_le_iff_ne_zero.2 nofun, Nat.zero_lt_one, nofun⟩, nofun⟩
  | pop | push | rise | complete | fall | begin | receive | release => exact ⟨hrange, hafter⟩

/-! ### Intake interface (R161, R168) -/

/-- The claims of the intake interface, with what they need of a part whose RESETN is asserted: no message is in
reception (R168). -/
def State.IntakeHeld (s : State) : Prop := (s.pins.resetn = .low → s.intake.receiving = false) ∧ s.IntakeInv

theorem State.IntakeHeld.of_resetHeld {s : State} (hr : s.ResetHeld) (hs : s.IntakeInv) : s.IntakeHeld := by
  refine ⟨fun hl => ?_, hs⟩
  rw [hr hl]
  rfl

/-- In IDLE the interface meets its claims at any level of IFRM. -/
theorem State.intakeHeld_of_idle {s : State} (h : s.intake = .idle) : s.IntakeHeld := by
  rw [State.IntakeHeld, State.IntakeInv, h]
  exact ⟨fun _ => rfl, Nat.zero_le _, Nat.zero_le _, fun _ => rfl, nofun⟩

/-- One more bit: at most 7 wait for their byte, and a byte past the 66th is not kept (R161). -/
theorem Intake.receive_bounds {i : Intake} (bit : Bool) (hbuffer : i.buffer.length ≤ 66) :
    (i.receive bit).buffer.length ≤ 66 ∧ (i.receive bit).bits.length ≤ 7
    ∧ (i.receive bit).receiving = i.receiving := by
  unfold Intake.receive
  dsimp only
  split
  · rename_i hlt
    exact ⟨hbuffer, Nat.lt_succ_iff.1 hlt, rfl⟩
  split
  · rename_i hlt
    refine ⟨?_, Nat.zero_le _, rfl⟩
    rw [List.length_append]
    exact hlt
  · exact ⟨hbuffer, Nat.zero_le _, rfl⟩

theorem LinkMove.intakeHeld {s t : State} (h : LinkMove s t) (hs : s.IntakeHeld) : t.IntakeHeld := by
  have hsame : ∀ {u : State}, u.pins.resetn = s.pins.resetn → u.pins.ifrm = s.pins.ifrm → u.intake = s.intake →
      u.IntakeHeld := fun hr hf hi => by rwa [State.IntakeHeld, State.IntakeInv, hr, hf, hi]
  obtain ⟨hlow, hbuffer, hbits, hidle, hifrm⟩ := id hs
  cases h with
  | same h | strobe _ _ h => exact hsame h.resetn h.ifrm h.intake
  | edge order =>
    have hpins := s.refclkEdge_pins order
    exact hsame (by rw [hpins]) (by rw [hpins]) (by simp [State.refclkEdge, s.validatePeriod_eq])
  | rise hquiet =>
    have hnot : s.intake.receiving = false := by
      cases hr : s.pins.resetn with
      | low => exact hlow hr
      | high => exact hquiet hr
    exact State.intakeHeld_of_idle (hidle hnot)
  | complete => exact State.intakeHeld_of_idle rfl
  | assert => exact State.intakeHeld_of_idle rfl
  | fall => exact ⟨hlow, hbuffer, hbits, hidle, fun _ => rfl⟩
  | begin hhigh =>
    exact ⟨fun hl => absurd (hhigh.symm.trans hl) nofun, Nat.zero_le _, Nat.zero_le _, nofun, fun _ => rfl⟩
  | receive bit hreceiving =>
    obtain ⟨hbuffer', hbits', hr⟩ := Intake.receive_bounds bit hbuffer
    have hnot : (s.intake.receive bit).receiving ≠ false := by simp [hr, hreceiving]
    exact ⟨fun hl => absurd (hreceiving.symm.trans (hlow hl)) nofun, hbuffer', hbits', fun h => absurd h hnot,
      fun _ => hifrm hreceiving⟩
  | release => exact ⟨nofun, hbuffer, hbits, hidle, hifrm⟩
  | pop | push | load | prescale | advance | rewind => exact hs

/-! ### Every step -/

/-- Settles O53: each move of the channel store keeps ages and flags, each move of the links and the time base keeps the
other three. -/
theorem stepsKeepRangesOfTheSmallBlocks : Obligations.StepsKeepRangesOfTheSmallBlocks := by
  intro s t h
  refine ⟨fun hs => ?_, fun hs => ?_, fun hs => ?_, fun hs => ?_, fun hr hs => ?_⟩
  · exact step_keeps_of_storeMove (fun _ _ hs => hs) (fun _ _ => StoreMove.freshnessInv) h hs
  · exact step_keeps_of_linkMove (fun _ _ hs => hs) (fun _ _ => LinkMove.commandInv) h hs
  · exact step_keeps_of_storeMove (fun _ _ hs => hs) (fun _ _ => StoreMove.healthInv) h hs
  · exact step_keeps_of_linkMove (fun _ _ hs => hs) (fun _ _ => LinkMove.timeInv) h hs
  · exact (step_keeps_of_linkMove (fun _ _ hs => hs) (fun _ _ => LinkMove.intakeHeld) h (.of_resetHeld hr hs)).2

end Sys2Proof.Machine

/-! ## Arrivals: the sequence check, and an accepted sample on a LATEST channel (R72, R74, R76, R78, R101). -/

namespace Sys2Proof.Machine

/-! ### The sequence check (R74) -/

/-- A counter rises, and stays at 0xFFFF where it would pass it (R76, R142). -/
theorem satAdd_toNat (k : BitVec 16) (n : Nat) :
    (satAdd k n).toNat = if k.toNat + n ≤ 0xFFFF then k.toNat + n else 0xFFFF := by
  rw [satAdd, BitVec.toNat_ofNat]
  split <;> omega

/-- With the check off, or no sequence number before it, every sample is accepted. -/
theorem judge_unchecked {check : Bool} {last : Option Byte} (h : check = false ∨ last = none) (seq : Byte) :
    judge check last seq = .accepted := by
  rcases h with rfl | rfl
  · rfl
  · cases check <;> rfl

/-- The difference from the last sequence number decides. -/
theorem judge_checked (last seq : Byte) : judge true (some last) seq =
    if (seq - last).toNat = 0 then .duplicate
    else if (seq - last).toNat = 1 then .accepted
    else if (seq - last).toNat ≤ 127 then .gap ((seq - last).toNat - 1)
    else .late := rfl

/-! ### An arrival by its judgement (R76, R101) -/

section Arrival

variable {s : State} {c : Nat} (seq : Byte) (v : Sample)

theorem State.arrive_orphan (h : c = 0 ∨ (s.channel c).keeping = .undefined) :
    s.arrive c seq v = s.report .orphanSamples 1 .orphan := if_pos h

variable {seq} (hc : c ≠ 0) (hk : (s.channel c).keeping ≠ .undefined)
include hc hk

theorem State.arrive_accepted (h : judge (s.channel c).seqCheck (s.channel c).lastSeq seq = .accepted) :
    s.arrive c seq v = s.acceptSample c (s.channel c) seq v := by
  simp [State.arrive, hc, hk, h]

theorem State.arrive_gap {missing : Nat}
    (h : judge (s.channel c).seqCheck (s.channel c).lastSeq seq = .gap missing) :
    s.arrive c seq v = (s.report .seqFaults 1 .seqFault).acceptSample c { s.channel c with
      counters := { (s.channel c).counters with
        gapLost := satAdd (s.channel c).counters.gapLost missing } } seq v := by
  simp [State.arrive, hc, hk, h]

theorem State.arrive_duplicate (h : judge (s.channel c).seqCheck (s.channel c).lastSeq seq = .duplicate) :
    s.arrive c seq v = (s.setChannel c { s.channel c with
      counters := { (s.channel c).counters with
        duplicate := satAdd (s.channel c).counters.duplicate 1 } }).report .seqFaults 1 .seqFault := by
  simp [State.arrive, hc, hk, h]

theorem State.arrive_late (h : judge (s.channel c).seqCheck (s.channel c).lastSeq seq = .late) :
    s.arrive c seq v = (s.setChannel c { s.channel c with
      counters := { (s.channel c).counters with
        late := satAdd (s.channel c).counters.late 1 } }).report .seqFaults 1 .seqFault := by
  simp [State.arrive, hc, hk, h]

end Arrival

/-- Settles O10: the judgement by the difference from the last sequence, and the arrival by the judgement. -/
theorem sequenceCheckJudgesArrivals : Obligations.SequenceCheckJudgesArrivals := by
  refine ⟨satAdd_toNat, fun s c seq v => ⟨State.arrive_orphan seq v, fun hc hk => ⟨fun h => ?_, ?_⟩⟩⟩
  · exact State.arrive_accepted v hc hk (judge_unchecked h seq)
  · intro last hcheck hlast diff
    have hjudge : judge (s.channel c).seqCheck (s.channel c).lastSeq seq =
        if diff = 0 then .duplicate else if diff = 1 then .accepted
        else if diff ≤ 127 then .gap (diff - 1) else .late := by
      rw [hcheck, hlast, judge_checked]
    refine ⟨fun h => ?_, fun h => ?_, fun h2 h127 => ?_, fun h => ?_⟩
    · exact State.arrive_duplicate v hc hk (by rw [hjudge, if_pos h])
    · exact State.arrive_accepted v hc hk (by rw [hjudge, if_neg (by omega), if_pos h])
    · exact State.arrive_gap v hc hk (by rw [hjudge, if_neg (by omega), if_neg (by omega), if_pos h127])
    · exact State.arrive_late v hc hk (by rw [hjudge, if_neg (by omega), if_neg (by omega), if_neg (by omega)])

/-! ### An accepted sample on a LATEST channel (R72, R78) -/

/-- The record is written, and the notice raised where the channel was STALE and asks for it. -/
theorem State.acceptSample_latest (s : State) (c : Nat) {ch : Channel} {p : LatestPart} (hk : ch.keeping = .latest p)
    (seq : Byte) (v : Sample) {t : State} (ht : t = s.setChannel c { ch with
      keeping := .latest { p with freshness := .fresh, age := 0 }
      lastSeq := some seq
      latestCell := v
      counters := { ch.counters with received := satAdd ch.counters.received 1 } }) :
    s.acceptSample c ch seq v =
      if p.freshness = .stale ∧ p.notify = true then t.notice noticeFresh (bytesOf 2 c) else t := by
  simp only [State.acceptSample, hk, ht]

/-- Settles O11: whether the notice is raised is the one case split. -/
theorem acceptedLatestSampleIsKept : Obligations.AcceptedLatestSampleIsKept := by
  intro s c ch p seq v hk t
  rw [State.acceptSample_latest s c hk seq v (t := t) rfl]
  refine ⟨fun hstale hnotify => if_pos ⟨hstale, hnotify⟩, fun h => if_neg fun ⟨hstale, hnotify⟩ => ?_⟩
  rcases h with hfresh | hquiet
  · exact hfresh hstale
  · exact absurd (hnotify.symm.trans hquiet) nofun

end Sys2Proof.Machine

/-! ## RESET_PART RESTART (R91, R108, R157, R158). -/

namespace Sys2Proof.Machine

/-- READY always finds room in a reply queue that its reset has emptied, and is then the only record (R133, R157). -/
theorem State.ready_of_empty {s : State} (h : s.replies = .empty) (cause : ResetCause) : s.ready cause = { s with
    replies := ⟨[replyRecord 0x00 noticeReady Status.notice.code (s.readyPayload cause)], 0, []⟩ } := by
  have hlen : (s.readyPayload cause).length = 6 := by simp [State.readyPayload]
  have hroom : 1 ≤ s.replies.freePlaces ∧ 5 + (s.readyPayload cause).length ≤ s.replies.freeBytes := by
    rw [h, hlen]
    decide
  rw [State.ready, State.notice, if_pos hroom, h]
  rfl

/-- Cause, part code, revision, node address and link mode (R133, 11.5). -/
theorem State.readyPayload_eq (s : State) (cause : ResetCause) : s.readyPayload cause =
    [cause.code, 0x72, 0x08, 0x12, s.pins.nodeAddress.setWidth 8,
      if s.pins.linkMode = .master then 0x01 else 0x00] := by
  have hpart : bytesOf 2 partCode = [0x72, 0x08] := by decide
  cases hm : s.pins.linkMode <;> simp [State.readyPayload, hm, hpart, revision]

/-- The take of a well-formed RESET_PART reserves nothing (R150). -/
theorem State.beginTake_of_reset {s : State} {r : CmdRecord} {option : ResetOption} (h : resetOption r = some option) :
    s.beginTake r = { s with commands := s.commands.tail } := by
  simp [State.beginTake, replyNeed, h]

/-- The effects of RESTART, with its READY written out (R157, R158). -/
theorem State.restart_eq (s : State) : s.restart = { s with
    commands := []
    validation := none
    engine := .reset
    bankA := { s.bankA with state := .editable }
    bankB := { s.bankB with state := .editable }
    channels := Table.update (fun _ ch => ch.restart) s.channels
    freeCells := 2048
    timeBase := { s.timeBase with load := none }
    health := { s.health with latched := Health.reset.latched }
    replies := ⟨[replyRecord 0x00 noticeReady Status.notice.code (s.readyPayload .restart)], 0, []⟩ } := by
  rw [State.restart, State.ready_of_empty rfl]
  rfl

/-- Settles O35: every record of the canonical table is restarted in its place, and READY is written into the emptied
reply queue. -/
theorem restartKeepsDefinitionsAndContents : Obligations.RestartKeepsDefinitionsAndContents := by
  intro s r hpool ht hcode hargs
  obtain ⟨hw, -⟩ := hpool.update (fun _ => Channel.restart_undefined) (fun _ ch _ => ch.restart_withinLimit)
  refine ⟨Table.update (fun _ ch => ch.restart) s.channels, hw, fun c => ?_, ?_⟩
  · rw [Table.get_update c rfl]
    change (s.channel c).restart = _
    cases hk : (s.channel c).keeping <;> simp only [Channel.restart, hk]
  · have hreset : resetOption r = some .restart := by simp [resetOption, hcode, hargs, Command.code]
    have hexec : exec .resetPartRestart s = .next (s.beginTake r).restart := State.take_next ht (by simp [hreset]) _
    rw [hexec, State.beginTake_of_reset hreset, State.restart_eq, State.readyPayload_eq]
    rfl

end Sys2Proof.Machine

/-! ## The channel commands at their takes: DEFINE_CHANNEL, UNDEFINE_CHANNEL and READ_CHANNEL (R83 to R89, R104). -/

namespace Sys2Proof.Machine

/-! ### Answers after a channel record was written -/

section Answers

variable {s : State} {r : CmdRecord} {k : Command} {i : Instr}

theorem State.TakesNow.answered_setChannel (h : s.TakesNow r k i) (c : Nat) (ch : Channel) (st : Status)
    (payload : List Byte) : ((s.beginTake r).setChannel c ch).reply r st payload
      = (s.answered r st.code payload).setChannel c ch := by
  rw [State.reply_of_take h.replyInv h.takeable h.replyNeed (by simp)]
  simp [State.answered, State.beginTake, State.setChannel, h.replyNeed]

theorem State.TakesNow.answered_replaceChannel (h : s.TakesNow r k i) (c : Nat) (ch : Channel) (st : Status)
    (payload : List Byte) : ((s.beginTake r).replaceChannel c ch).reply r st payload
      = { (s.answered r st.code payload).setChannel c ch with
          freeCells := s.freeCells + (s.channel c).queue.length } := by
  rw [State.reply_of_take h.replyInv h.takeable h.replyNeed (by simp [State.replaceChannel])]
  simp [State.answered, State.beginTake, State.replaceChannel, State.setChannel, State.channel, h.replyNeed]

theorem State.TakesNow.answered_redefineQueued (h : s.TakesNow r k i) (c : Nat) (ch : Channel) (d : Definition)
    (old new : QueuedPart) (st : Status) (payload : List Byte) :
    ((s.beginTake r).redefineQueued c ch d old new).reply r st payload
      = (s.answered r st.code payload).redefineQueued c ch d old new := by
  unfold State.redefineQueued
  dsimp only
  split
  · rw [State.reply_of_take h.replyInv h.takeable h.replyNeed (by simp)]
    simp [State.answered, State.beginTake, State.setChannel, h.replyNeed]
  · rw [State.reply_of_take h.replyInv h.takeable h.replyNeed (by simp)]
    simp [State.answered, State.beginTake, State.setChannel, State.report, State.count, State.setFlag, h.replyNeed]

end Answers

/-! ### The arguments of DEFINE_CHANNEL (R84, 11.3) -/

theorem channelOk_iff (c : Nat) : channelOk c = true ↔ 1 ≤ c ∧ c ≤ 1023 := by simp [channelOk]

theorem channelOk_eq_false (c : Nat) : channelOk c = false ↔ c = 0 ∨ 1023 < c := by
  rw [Bool.eq_false_iff, ne_eq, channelOk_iff]
  omega

/-- The definition of a LATEST channel that passes its checks (R84, R85). -/
def latestDefinition (limit policy options : Byte) (fill : Sample) : Definition :=
  ⟨.latest ⟨.never, 255, limit.toNat, if policy = 0x00 then .hold else .fill, options.getLsbD 1⟩, fill,
    options.getLsbD 0⟩

/-- The definition of a QUEUED channel that passes its checks (R84, R85). -/
def queuedDefinition (limit policy options : Byte) (fill : Sample) : Definition :=
  ⟨.queued ⟨limit.toNat, if policy = 0x00 then .dropNew else .dropOld, []⟩, fill, options.getLsbD 0⟩

section Arguments

variable {c : Nat} {kind limit policy options : Byte} {fill : Sample}

theorem length_defineArgs : (defineArgs c kind limit policy fill options).length = 9 := by simp [defineArgs]

theorem fieldAt_defineArgs_channel (hc : c < 65536) :
    fieldAt (defineArgs c kind limit policy fill options) 0 2 = c :=
  fieldAt_of_eq (before := []) (after := [kind, limit, policy] ++ bytesOf 3 fill.toNat ++ [options])
    (by simp [defineArgs]) hc

theorem fieldAt_defineArgs_fill : fieldAt (defineArgs c kind limit policy fill options) 5 3 = fill.toNat :=
  fieldAt_of_eq (before := bytesOf 2 c ++ [kind, limit, policy]) (after := [options])
    (by simp [defineArgs]) fill.isLt

/-- Checks 2 to 4 of R84, with every argument read back where its bytes stand. -/
theorem definitionOf_defineArgs : definitionOf (defineArgs c kind limit policy fill options) =
    if kind = 0x01 ∧ limit.toNat ≤ 254 ∧ (policy = 0x00 ∨ policy = 0x01) then
      some (latestDefinition limit policy options fill)
    else if kind = 0x02 ∧ 1 ≤ limit.toNat ∧ (policy = 0x00 ∨ policy = 0x01) then
      some (queuedDefinition limit policy options fill)
    else none := by
  have hkind : byteAt (defineArgs c kind limit policy fill options) 2 = kind := rfl
  have hlimit : byteAt (defineArgs c kind limit policy fill options) 3 = limit := rfl
  have hpolicy : byteAt (defineArgs c kind limit policy fill options) 4 = policy := rfl
  have hoptions : byteAt (defineArgs c kind limit policy fill options) 8 = options := rfl
  simp only [definitionOf, hkind, hlimit, hpolicy, hoptions, fieldAt_defineArgs_fill, BitVec.ofNat_toNat,
    BitVec.setWidth_eq, latestDefinition, queuedDefinition]
  by_cases hl : kind = 0x01 ∧ limit.toNat ≤ 254 ∧ (policy = 0x00 ∨ policy = 0x01)
  · rw [if_pos hl]
    obtain ⟨rfl, hle, rfl | rfl⟩ := hl <;> simp [hle]
  rw [if_neg hl]
  by_cases hq : kind = 0x02 ∧ 1 ≤ limit.toNat ∧ (policy = 0x00 ∨ policy = 0x01)
  · rw [if_pos hq]
    obtain ⟨rfl, hle, rfl | rfl⟩ := hq <;> simp [hle]
  rw [if_neg hq]
  have hpolicies : ∀ a b : Definition, ¬ (policy = 0x00 ∨ policy = 0x01) →
      (if policy = 0x00 then some a else if policy = 0x01 then some b else none) = none := by
    intro a b h
    rw [if_neg fun h0 => h (.inl h0), if_neg fun h1 => h (.inr h1)]
  split
  · rename_i hk
    split
    · rename_i hle
      exact hpolicies _ _ fun hp => hl ⟨hk, hle, hp⟩
    · rfl
  split
  · rename_i hk
    split
    · rename_i hle
      exact hpolicies _ _ fun hp => hq ⟨hk, hle, hp⟩
    · rfl
  · rfl

end Arguments

/-! ### DEFINE_CHANNEL (R84 to R87, R104) -/

/-- A DEFINE_CHANNEL of channel `c` is taken now, with channel number and definition `d` in range (R69, R84). -/
structure State.Defines (s : State) (r : CmdRecord) (c : Nat) (d : Definition) : Prop
    extends s.TakesNow r .defineChannel .defineChannel where
  channel : fieldAt r.args 0 2 = c
  channelOk : channelOk c = true
  definition : definitionOf r.args = some d

theorem State.TakesNow.define_refused {s : State} {r : CmdRecord} (h : s.TakesNow r .defineChannel .defineChannel)
    (hbad : channelOk (fieldAt r.args 0 2) = false ∨ definitionOf r.args = none) :
    exec .defineChannel s = .next (s.answered r 0x10 []) := by
  have hrefused : Command.defineChannel.owner r (s.beginTake r) = (s.beginTake r).reply r .badArgument [] := by
    unfold Command.owner State.defineChannel
    rcases hbad with hc | hd
    · simp [hc]
    · simp [hd]
  rw [h.exec_eq, hrefused, h.answered, Status.code]

namespace State.Defines

variable {s : State} {r : CmdRecord} {c : Nat} {d : Definition}

theorem exec_eq (h : s.Defines r c d) : exec .defineChannel s = .next ((s.beginTake r).defineChannel r) :=
  h.toTakesNow.exec_eq

/-- A new record on an UNDEFINED channel (R85). -/
theorem new (h : s.Defines r c d) (hk : (s.channel c).keeping = .undefined) :
    exec .defineChannel s = .next ((s.answered r 0x00 []).setChannel c d.record) := by
  rw [h.exec_eq]
  simp only [State.defineChannel, h.channel, h.channelOk, h.definition, State.beginTake_channel, hk, not_true_eq_false,
    if_false, h.answered_setChannel, Status.code]

theorem sameLatest (h : s.Defines r c d) {old new : LatestPart} (hk : (s.channel c).keeping = .latest old)
    (hd : d.keeping = .latest new) :
    exec .defineChannel s
      = .next ((s.answered r 0x00 []).setChannel c ((s.channel c).redefineLatest d old new)) := by
  rw [h.exec_eq]
  simp only [State.defineChannel, h.channel, h.channelOk, h.definition, State.beginTake_channel, hk, hd,
    not_true_eq_false, if_false, h.answered_setChannel, Status.code]

theorem sameQueued (h : s.Defines r c d) {old new : QueuedPart} (hk : (s.channel c).keeping = .queued old)
    (hd : d.keeping = .queued new) :
    exec .defineChannel s = .next ((s.answered r 0x00 []).redefineQueued c (s.channel c) d old new) := by
  rw [h.exec_eq]
  simp only [State.defineChannel, h.channel, h.channelOk, h.definition, State.beginTake_channel, hk, hd,
    not_true_eq_false, if_false, h.answered_redefineQueued, Status.code]

/-- A definition of the other kind: the old queue flushed, or IN_USE (R83, R87). -/
theorem otherKind (h : s.Defines r c d)
    (hk : (∃ old new, (s.channel c).keeping = .latest old ∧ d.keeping = .queued new)
      ∨ ∃ old new, (s.channel c).keeping = .queued old ∧ d.keeping = .latest new) :
    exec .defineChannel s = .next (if (s.channel c).pinned then s.answered r 0x16 [] else
      { (s.answered r 0x00 []).setChannel c d.record with
        freeCells := s.freeCells + (s.channel c).queue.length }) := by
  rw [h.exec_eq]
  rcases hk with ⟨old, new, hk, hd⟩ | ⟨old, new, hk, hd⟩
  all_goals
    simp only [State.defineChannel, h.channel, h.channelOk, h.definition, State.beginTake_channel, hk, hd,
      not_true_eq_false, if_false, h.answered_replaceChannel, h.answered, Status.code]

end State.Defines

theorem Channel.pinned_iff (ch : Channel) : ch.pinned = true ↔ ch.activeRef = true ∨ ch.pendingRef = true := by
  simp [Channel.pinned]

theorem Channel.pinned_eq_false {ch : Channel} (ha : ch.activeRef = false) (hp : ch.pendingRef = false) :
    ch.pinned = false := by
  simp [Channel.pinned, ha, hp]

/-- Settles O37: the arguments are read back, and the kind that the channel has decides. -/
theorem defineChannelWritesANewRecord : Obligations.DefineChannelWritesANewRecord := by
  intro s r c kind limit policy options fill hq ht hcode hc hargs ch record newLatest newQueued inRange goodLatest
    goodQueued
  have htake : s.TakesNow r .defineChannel .defineChannel :=
    ⟨hq, ht, hcode, by rw [hargs, length_defineArgs]; rfl, rfl⟩
  have hchannel : fieldAt r.args 0 2 = c := by rw [hargs, fieldAt_defineArgs_channel hc]
  have hlatest : inRange → goodLatest → s.Defines r c (latestDefinition limit policy options fill) := fun hr hg =>
    ⟨htake, hchannel, (channelOk_iff c).2 hr, by rw [hargs, definitionOf_defineArgs, if_pos hg]⟩
  have hqueued : inRange → goodQueued → s.Defines r c (queuedDefinition limit policy options fill) := fun hr hg =>
    ⟨htake, hchannel, (channelOk_iff c).2 hr, by
      have hnot : ¬ goodLatest := fun ⟨h1, _⟩ => absurd (h1.symm.trans hg.1) (by decide)
      rw [hargs, definitionOf_defineArgs, if_neg hnot, if_pos hg]⟩
  refine ⟨fun hbad => htake.define_refused ?_, fun hr hk => ⟨fun hg => ?_, fun hg => ?_⟩, fun hr p hk hg => ?_,
    fun hr p hk hg => ?_⟩
  · rcases hbad with hr | hg
    · exact .inl (by rw [hchannel, Bool.eq_false_iff, ne_eq, channelOk_iff]; exact hr)
    · rw [not_or] at hg
      exact .inr (by rw [hargs, definitionOf_defineArgs, if_neg hg.1, if_neg hg.2])
  · exact (hlatest hr hg).new hk
  · exact (hqueued hr hg).new hk
  · rw [(hlatest hr hg).otherKind (.inr ⟨_, _, hk, rfl⟩), Channel.queue_queued hk]
    exact ⟨fun hp => congrArg _ (if_pos (ch.pinned_iff.2 hp)),
      fun ha hp => congrArg _ (if_neg (by rw [Channel.pinned_eq_false ha hp]; exact nofun))⟩
  · rw [(hqueued hr hg).otherKind (.inl ⟨_, _, hk, rfl⟩), Channel.queue_latest hk]
    exact ⟨fun hp => congrArg _ (if_pos (ch.pinned_iff.2 hp)),
      fun ha hp => congrArg _ (if_neg (by rw [Channel.pinned_eq_false ha hp]; exact nofun))⟩

theorem satAdd_zero (k : BitVec 16) : satAdd k 0 = k := by
  apply BitVec.eq_of_toNat_eq
  have := k.isLt
  rw [satAdd_toNat, if_pos (by omega), Nat.add_zero]

/-- A queue that the new limit holds stays (R86). -/
theorem State.redefineQueued_untrimmed (s : State) (c : Nat) (ch : Channel) (d : Definition) {old new : QueuedPart}
    (h : old.queue.length ≤ new.limit) : s.redefineQueued c ch d old new = s.setChannel c { ch with
      keeping := .queued { new with queue := old.queue }, fill := d.fill, seqCheck := d.seqCheck } := by
  have hnone : trimCount old.queue new.limit = 0 := Nat.sub_eq_zero_of_le h
  simp only [State.redefineQueued, hnone, if_true, List.drop_zero, Channel.countOverflow, satAdd_zero]
  rfl

/-- A longer queue loses its oldest samples, which return their cells and are counted and flagged (R86, R104). -/
theorem State.redefineQueued_trimmed (s : State) (c : Nat) (ch : Channel) (d : Definition) {old new : QueuedPart}
    {lost kept : List Sample} (hq : old.queue = lost ++ kept) (hlost : lost ≠ []) (hkept : kept.length = new.limit) :
    s.redefineQueued c ch d old new = { s.setChannel c { ch with
        keeping := .queued { new with queue := kept }
        fill := d.fill
        seqCheck := d.seqCheck
        counters := { ch.counters with overflow := satAdd ch.counters.overflow lost.length } } with
      freeCells := s.freeCells + lost.length }.report .overflowDrops lost.length .sampleDrop := by
  have htrim : trimCount old.queue new.limit = lost.length := by
    rw [trimCount, hq, List.length_append, hkept, Nat.add_sub_cancel]
  have hsome : lost.length ≠ 0 := fun h => hlost (List.length_eq_zero_iff.1 h)
  have hdrop : old.queue.drop lost.length = kept := by rw [hq, List.drop_left]
  simp only [State.redefineQueued, htrim, hdrop, if_neg hsome]
  rfl

/-- Settles O38: the record is redefined in its kind, and its queue is trimmed or stays. -/
theorem redefinitionKeepsTheRecord : Obligations.RedefinitionKeepsTheRecord := by
  intro s r c kind limit policy options fill hq ht hcode hc1 hc1023 hargs hpolicy ch
  have htake : s.TakesNow r .defineChannel .defineChannel :=
    ⟨hq, ht, hcode, by rw [hargs, length_defineArgs]; rfl, rfl⟩
  have hchannel : fieldAt r.args 0 2 = c := by rw [hargs, fieldAt_defineArgs_channel (by omega)]
  have hok : channelOk c = true := (channelOk_iff c).2 ⟨hc1, hc1023⟩
  refine ⟨?_, ?_⟩
  · rintro p hk rfl hlimit
    have hdefines : s.Defines r c (latestDefinition limit policy options fill) :=
      ⟨htake, hchannel, hok, by rw [hargs, definitionOf_defineArgs, if_pos ⟨rfl, hlimit, hpolicy⟩]⟩
    exact hdefines.sameLatest hk rfl
  · rintro p hk rfl hlimit record
    have hdefines : s.Defines r c (queuedDefinition limit policy options fill) :=
      ⟨htake, hchannel, hok, by
        rw [hargs, definitionOf_defineArgs, if_neg (fun h => absurd h.1 (by decide)), if_pos ⟨rfl, hlimit, hpolicy⟩]⟩
    rw [hdefines.sameQueued hk rfl]
    refine ⟨fun hfits => ?_, fun lost kept hqueue hlost hkept => ?_⟩
    · rw [State.redefineQueued_untrimmed _ _ _ _ hfits]
      rfl
    · rw [State.redefineQueued_trimmed _ _ _ _ hqueue hlost hkept]
      rfl

/-! ### UNDEFINE_CHANNEL (R88) -/

theorem State.TakesNow.undefine {s : State} {r : CmdRecord} {c : Nat}
    (h : s.TakesNow r .undefineChannel .undefineChannel) (hc : fieldAt r.args 0 2 = c) :
    exec .undefineChannel s = .next (
      if channelOk c = false then s.answered r 0x10 []
      else if (s.channel c).keeping = .undefined then s.answered r 0x17 []
      else if (s.channel c).pinned = true then s.answered r 0x16 []
      else { (s.answered r 0x00 []).setChannel c .blank with
        freeCells := s.freeCells + (s.channel c).queue.length }) := by
  rw [h.exec_eq]
  simp only [Command.owner, State.undefineChannel, hc, State.beginTake_channel, Bool.not_eq_true, h.answered,
    h.answered_replaceChannel, Status.code]

/-! ### READ_CHANNEL (R89, 11.5) -/

theorem State.TakesNow.read {s : State} {r : CmdRecord} {c : Nat} (h : s.TakesNow r .readChannel .readChannel)
    (hc : fieldAt r.args 0 2 = c) :
    exec .readChannel s = .next (
      if channelOk c = false then s.answered r 0x10 []
      else if (s.channel c).keeping = .undefined then s.answered r 0x17 []
      else s.answered r 0x00 (s.channel c).payload) := by
  rw [h.exec_eq]
  simp only [Command.owner, State.readChannel, hc, State.beginTake_channel, Bool.not_eq_true, h.answered, Status.code]

/-- The state byte of a record with these bits for its kind, policy and notify (11.5). -/
def Channel.stateByte (ch : Channel) (kind : BitVec 2) (policy notify : Bool) : Byte :=
  BitVec.ofNat 8 (kind.toNat + 4 * policy.toNat + 8 * ch.seqCheck.toNat + 16 * notify.toNat
    + 32 * ch.lastSeq.isSome.toNat + 64 * ch.activeRef.toNat + 128 * ch.pendingRef.toNat)

/-- Seven fields that add up without a carry are read back bit by bit. -/
theorem stateBits_of_sum : ∀ (kind : BitVec 2) (b2 b3 b4 b5 b6 b7 : Bool),
    let state : Byte := BitVec.ofNat 8 (kind.toNat + 4 * b2.toNat + 8 * b3.toNat + 16 * b4.toNat + 32 * b5.toNat
      + 64 * b6.toNat + 128 * b7.toNat)
    state.extractLsb' 0 2 = kind ∧ state.getLsbD 2 = b2 ∧ state.getLsbD 3 = b3 ∧ state.getLsbD 4 = b4
      ∧ state.getLsbD 5 = b5 ∧ state.getLsbD 6 = b6 ∧ state.getLsbD 7 = b7 := by
  decide

theorem Channel.payload_eq {ch : Channel} {kind : BitVec 2} {policy notify : Bool} {limit age : Nat}
    (h : ch.report = (kind.toNat, policy, notify, limit, age)) : ch.payload =
      [ch.stateByte kind policy notify, BitVec.ofNat 8 limit, BitVec.ofNat 8 age, ch.lastSeq.getD 0]
        ++ bytesOf 3 ch.fill.toNat ++ bytesOf 3 ch.latestCell.toNat ++ bytesOf 3 ch.holdCell.toNat
        ++ bytesOf 2 ch.counters.received.toNat ++ bytesOf 2 ch.counters.overflow.toNat
        ++ bytesOf 2 ch.counters.gapLost.toNat ++ bytesOf 2 ch.counters.duplicate.toNat
        ++ bytesOf 2 ch.counters.late.toNat ++ bytesOf 2 ch.counters.underrun.toNat
        ++ bytesOf 2 ch.counters.staleCapture.toNat := by
  simp [Channel.payload, h, Channel.stateByte, ChannelCounters.inOrder]

/-- The code of a freshness in the state byte (11.5). -/
def Freshness.code : Freshness → BitVec 2
  | .never => 0
  | .fresh => 1
  | .stale => 2

theorem Channel.report_latest {ch : Channel} {p : LatestPart} (hk : ch.keeping = .latest p) :
    ch.report = (p.freshness.code.toNat, decide (p.policy = .fill), p.notify, p.limit, p.age) := by
  cases hf : p.freshness <;> cases hp : p.policy <;> simp [Channel.report, hk, hf, hp, Freshness.code]

theorem Channel.report_queued {ch : Channel} {p : QueuedPart} (hk : ch.keeping = .queued p) :
    ch.report = ((3 : BitVec 2).toNat, decide (p.policy = .dropOld), false, p.limit, p.queue.length) := by
  cases hp : p.policy <;> simp [Channel.report, hk, hp]

/-- Settles O39: each command's checks in their order; the payload is read off the record's kind. -/
theorem undefineAndReadChannel : Obligations.UndefineAndReadChannel := by
  intro s r c hq ht hc hargs ch
  have hchannel : fieldAt r.args 0 2 = c := fieldAt_of_eq (before := []) (after := []) (by simp [hargs]) hc
  refine ⟨fun hcode => ?_, fun hcode => ?_⟩
  · have htake : s.TakesNow r .undefineChannel .undefineChannel := ⟨hq, ht, hcode, by rw [hargs]; simp; rfl, rfl⟩
    rw [htake.undefine hchannel]
    simp only [channelOk_eq_false, Channel.pinned_iff]
    rfl
  · have htake : s.TakesNow r .readChannel .readChannel := ⟨hq, ht, hcode, by rw [hargs]; simp; rfl, rfl⟩
    rw [htake.read hchannel]
    have hok : 1 ≤ c → c ≤ 1023 → ¬ channelOk c = false := fun h1 h1023 => by
      rw [channelOk_eq_false]
      omega
    refine ⟨fun hbad => ?_, fun h1 h1023 hk => ?_, fun h1 h1023 hk => ?_⟩
    · rw [if_pos ((channelOk_eq_false c).2 hbad)]
    · rw [if_neg (hok h1 h1023), if_pos hk]
    · rw [if_neg (hok h1 h1023), if_neg hk]
      cases hkeeping : ch.keeping with
      | undefined => exact absurd hkeeping hk
      | latest p =>
        obtain ⟨h01, h2, h3, h4, h5, h6, h7⟩ := stateBits_of_sum p.freshness.code (decide (p.policy = .fill))
          ch.seqCheck p.notify ch.lastSeq.isSome ch.activeRef ch.pendingRef
        exact ⟨_, _, _, ⟨h3, h5, h6, h7⟩, ⟨h01, h2, h4, rfl, rfl⟩,
          congrArg (fun payload => Host.Outcome.next (s.answered r 0x00 payload))
            (Channel.payload_eq (Channel.report_latest hkeeping))⟩
      | queued p =>
        obtain ⟨h01, h2, h3, h4, h5, h6, h7⟩ := stateBits_of_sum 3 (decide (p.policy = .dropOld)) ch.seqCheck false
          ch.lastSeq.isSome ch.activeRef ch.pendingRef
        exact ⟨_, _, _, ⟨h3, h5, h6, h7⟩, ⟨h01, h2, h4, rfl, rfl⟩,
          congrArg (fun payload => Host.Outcome.next (s.answered r 0x00 payload))
            (Channel.payload_eq (Channel.report_queued hkeeping))⟩

end Sys2Proof.Machine

/-! ## An accepted sample on a QUEUED channel (R72, R98, R99). -/

namespace Sys2Proof.Machine

/-- The record as the channel table leaves it before the sample store acts: last sequence and RECEIVED (R72). -/
def Channel.accepted (ch : Channel) (seq : Byte) : Channel :=
  { ch with
    lastSeq := some seq
    counters := { ch.counters with received := satAdd ch.counters.received 1 } }

/-- On a QUEUED channel the accepted sample is the sample store's (R72 step 5). -/
theorem State.acceptSample_queued (s : State) (c : Nat) {ch : Channel} {p : QueuedPart} (hk : ch.keeping = .queued p)
    (seq : Byte) (v : Sample) : s.acceptSample c ch seq v = s.appendSample c (ch.accepted seq) p v := by
  simp only [State.acceptSample, hk, Channel.accepted]

/-! ### The sample store's cases (R98) -/

/-- The state after an overflow that leaves `queue`: the loss is counted on the channel and on the part, and flagged
(R99). -/
def State.overflowed (s : State) (c : Nat) (ch : Channel) (p : QueuedPart) (queue : List Sample) : State :=
  (s.setChannel c ({ ch with keeping := .queued { p with queue := queue } }.countOverflow 1)).report
    .overflowDrops 1 .sampleDrop

section Store

variable {s : State} {p : QueuedPart} (c : Nat) (ch : Channel) (v : Sample)

/-- Case 1: room in the queue and in the pool. -/
theorem State.appendSample_room (h : p.queue.length < p.limit ∧ 1 ≤ s.freeCells) :
    s.appendSample c ch p v =
      { s.setChannel c { ch with keeping := .queued { p with queue := p.queue ++ [v] } } with
        freeCells := s.freeCells - 1 } := if_pos h

variable (hfull : ¬ (p.queue.length < p.limit ∧ 1 ≤ s.freeCells))
include hfull

/-- Case 2: the arriving sample is lost, the queue stays. -/
theorem State.appendSample_dropNew (hp : p.policy = .dropNew) :
    s.appendSample c ch p v = s.overflowed c ch p p.queue := by
  obtain ⟨limit, policy, queue⟩ := p
  subst hp
  exact if_neg hfull

/-- Case 3: the oldest sample gives its cell to the arriving one. -/
theorem State.appendSample_dropOld_cons (hp : p.policy = .dropOld) {oldest : Sample} {rest : List Sample}
    (hq : p.queue = oldest :: rest) : s.appendSample c ch p v = s.overflowed c ch p (rest ++ [v]) := by
  obtain ⟨limit, policy, queue⟩ := p
  subst hp hq
  exact if_neg hfull

/-- Case 4: nothing to displace, so the arriving sample is lost. -/
theorem State.appendSample_dropOld_nil (hp : p.policy = .dropOld) (hq : p.queue = []) :
    s.appendSample c ch p v = s.overflowed c ch p [] := by
  obtain ⟨limit, policy, queue⟩ := p
  subst hp hq
  exact if_neg hfull

end Store

/-- Settles O12: the record of R72 first, then the sample store case by case. -/
theorem acceptedQueuedSampleFollowsTheCases : Obligations.AcceptedQueuedSampleFollowsTheCases := by
  intro s c ch p seq v hk record overflow
  rw [State.acceptSample_queued s c hk seq v]
  refine ⟨fun hroom => ?_, fun hfull => ⟨fun hnew => ?_, fun hold oldest rest hq => ?_, fun hold hq => ?_⟩⟩
  · exact State.appendSample_room c _ v hroom
  · exact State.appendSample_dropNew c _ v hfull hnew
  · exact State.appendSample_dropOld_cons c _ v hfull hold hq
  · exact State.appendSample_dropOld_nil c _ v hfull hold hq

end Sys2Proof.Machine

/-! ## The pacer over a run of REFCLK edges (R111, R112). -/

namespace Sys2Proof.Machine

/-! ### One edge, and a run of them -/

@[simp] theorem Serializer.pace_ratioN (z : Serializer) : z.pace.ratioN = z.ratioN := by
  unfold Serializer.pace
  dsimp only
  split <;> rfl

@[simp] theorem Serializer.pace_ratioD (z : Serializer) : z.pace.ratioD = z.ratioD := by
  unfold Serializer.pace
  dsimp only
  split <;> rfl

/-- An edge puts N into the accumulator and takes D out of it for the strobe that it makes, if any (R111). -/
theorem Serializer.pace_balance (z : Serializer) :
    z.accumulator + z.ratioN.toNat = z.ratioD.toNat * z.strobesIn 1 + z.pace.accumulator := by
  simp only [Serializer.strobesIn, Serializer.pace]
  split
  · dsimp only
    omega
  · simp

/-- The strobes of a run are those of its first edge and those of the rest. -/
theorem Serializer.strobesIn_succ (z : Serializer) (k : Nat) :
    z.strobesIn (k + 1) = z.strobesIn 1 + z.pace.strobesIn k := rfl

/-- Over `k` edges the accumulator loses nothing: N came in at each, D went out at each strobe. -/
theorem Serializer.paced_balance (k : Nat) (z : Serializer) :
    z.accumulator + k * z.ratioN.toNat = z.ratioD.toNat * z.strobesIn k + (z.paced k).accumulator := by
  induction k generalizing z with
  | zero => simp [Serializer.strobesIn, Serializer.paced]
  | succ k ih =>
    have hfirst := z.pace_balance
    have hrest := ih z.pace
    rw [Serializer.pace_ratioN, Serializer.pace_ratioD] at hrest
    rw [Serializer.strobesIn_succ, Serializer.paced, Nat.succ_mul, Nat.mul_add]
    omega

/-- A ratio that the pacer can use, with the accumulator below D (R110, R113). -/
structure Serializer.Paces (z : Serializer) : Prop where
  one_le : 1 ≤ z.ratioN.toNat
  twice_le : 2 * z.ratioN.toNat ≤ z.ratioD.toNat
  below : z.accumulator < z.ratioD.toNat

namespace Serializer.Paces

variable {z : Serializer}

theorem pace (h : z.Paces) : z.pace.Paces := by
  obtain ⟨h1, h2, h3⟩ := z.pace_inRange ⟨h.one_le, h.twice_le, h.below⟩
  exact ⟨h1, h2, h3⟩

theorem paced_below (h : z.Paces) (k : Nat) : (z.paced k).accumulator < z.ratioD.toNat := by
  induction k generalizing z with
  | zero => exact h.below
  | succ k ih => simpa [Serializer.paced] using ih h.pace

/-- The strobes of `k` edges are the whole Ds in what the edges bring the accumulator to, and the rest stays there. -/
theorem strobesIn_paced (h : z.Paces) (k : Nat) :
    z.strobesIn k = (z.accumulator + k * z.ratioN.toNat) / z.ratioD.toNat
      ∧ (z.paced k).accumulator = (z.accumulator + k * z.ratioN.toNat) % z.ratioD.toNat := by
  have hpos : 0 < z.ratioD.toNat := Nat.zero_lt_of_lt h.below
  have hsum : (z.paced k).accumulator + z.ratioD.toNat * z.strobesIn k = z.accumulator + k * z.ratioN.toNat := by
    rw [z.paced_balance k, Nat.add_comm]
  obtain ⟨hdiv, hmod⟩ := (Nat.div_mod_unique hpos).2 ⟨hsum, h.paced_below k⟩
  exact ⟨hdiv.symm, hmod.symm⟩

/-! ### Runs with no strobe and with one -/

theorem strobesIn_eq_zero (h : z.Paces) {k : Nat} (hk : z.accumulator + k * z.ratioN.toNat < z.ratioD.toNat) :
    z.strobesIn k = 0 := by
  rw [(h.strobesIn_paced k).1, Nat.div_eq_of_lt hk]

theorem strobesIn_eq_one (h : z.Paces) {k : Nat} (hlow : z.ratioD.toNat ≤ z.accumulator + k * z.ratioN.toNat)
    (hhigh : z.accumulator + k * z.ratioN.toNat < 2 * z.ratioD.toNat) : z.strobesIn k = 1 := by
  rw [(h.strobesIn_paced k).1]
  exact Nat.div_eq_of_lt_le (by omega) (by omega)

/-- Where the last of `k + 1` edges is the one that brings the accumulator to D, it makes the run's only strobe. -/
theorem first_strobe (h : z.Paces) {k : Nat} (hbefore : z.accumulator + k * z.ratioN.toNat < z.ratioD.toNat)
    (hlast : z.ratioD.toNat ≤ z.accumulator + (k + 1) * z.ratioN.toNat) :
    z.strobesIn (k + 1) = 1 ∧ ∀ j < k + 1, z.strobesIn j = 0 := by
  have htwice := h.twice_le
  constructor
  · refine h.strobesIn_eq_one hlast ?_
    rw [Nat.succ_mul]
    omega
  · intro j hj
    have hle : j * z.ratioN.toNat ≤ k * z.ratioN.toNat := Nat.mul_le_mul_right _ (Nat.le_of_lt_succ hj)
    exact h.strobesIn_eq_zero (by omega)

/-- After a strobe, which leaves less than N in the accumulator, the floor of D/N edges bring it to D again, or one edge
more does, and then that is the ceiling, D/N being no whole number (R112). -/
theorem next_strobe (h : z.Paces) (hafter : z.accumulator < z.ratioN.toNat) :
    ∃ k, (k = z.ratioD.toNat / z.ratioN.toNat ∨ k = (z.ratioD.toNat + z.ratioN.toNat - 1) / z.ratioN.toNat)
      ∧ z.strobesIn k = 1 ∧ ∀ j < k, z.strobesIn j = 0 := by
  have hfloor := Nat.div_mul_le_self z.ratioD.toNat z.ratioN.toNat
  have hnext := Nat.lt_mul_div_succ z.ratioD.toNat h.one_le
  rw [Nat.mul_comm] at hnext
  by_cases hreached : z.ratioD.toNat ≤ z.accumulator + z.ratioD.toNat / z.ratioN.toNat * z.ratioN.toNat
  · have hpos : z.ratioD.toNat / z.ratioN.toNat ≠ 0 := by
      intro hzero
      have := h.twice_le
      rw [hzero] at hreached
      omega
    obtain ⟨k, hk⟩ := Nat.exists_eq_succ_of_ne_zero hpos
    rw [hk] at hreached hfloor
    rw [Nat.succ_mul] at hfloor
    exact ⟨k + 1, .inl hk.symm, h.first_strobe (by omega) hreached⟩
  · have hceil : (z.ratioD.toNat + z.ratioN.toNat - 1) / z.ratioN.toNat = z.ratioD.toNat / z.ratioN.toNat + 1 := by
      exact Nat.div_eq_of_lt_le (by rw [Nat.succ_mul]; omega) (by rw [Nat.succ_mul]; omega)
    exact ⟨_, .inr hceil.symm, h.first_strobe (by omega) (by omega)⟩

end Serializer.Paces

/-- Settles O26: a run's strobes are what its edges bring the accumulator to, divided by D; the remainder
stays in it. -/
theorem pacerMakesNStrobesInDEdges : Obligations.PacerMakesNStrobesInDEdges := by
  intro z n d hone htwice hbelow
  have h : z.Paces := ⟨hone, htwice, hbelow⟩
  obtain ⟨hcount, hacc⟩ := h.strobesIn_paced d
  refine ⟨?_, ?_, ?_, h.next_strobe⟩
  · rw [hcount, Nat.add_mul_div_left _ _ (Nat.zero_lt_of_lt hbelow), Nat.div_eq_of_lt hbelow, Nat.zero_add]
  · rw [hacc, Nat.add_mul_mod_self_left, Nat.mod_eq_of_lt hbelow]
  · rw [(h.strobesIn_paced 2).1]
    exact Nat.le_of_lt_succ (Nat.div_lt_of_lt_mul (by omega))

end Sys2Proof.Machine

/-! ## The bits of a word at the strobes (R110, R111, R114). -/

namespace Sys2Proof.Machine

/-- A strobe occurs with RESETN released, in FOLLOWER mode or where the pacer has made one (R111, R114, R116). -/
theorem State.strobeOccurs_iff (s : State) : s.strobeOccurs = true ↔
    s.pins.resetn = .high ∧ (s.pins.linkMode = .follower ∨ s.serial.strobeDue = true) := by
  simp [State.strobeOccurs]

/-- Within a word a strobe shifts the next bit out and ends (R110, R111). -/
theorem State.strobe_of_bits (s : State) {w : OutWord} {k : Nat} (hw : s.serial.word = some w)
    (hk : s.serial.remaining = k + 1) : s.strobe = { s with
      serial := { s.serial with
        remaining := k
        odat := if w.bits.getLsbD k then .high else .low
        ofrm := .high
        strobeDue := false
        oclk := if s.pins.linkMode = .master then .low else s.serial.oclk }
      timeBase := s.timeBase.takeEdge } := by
  have hshift : s.strobe = { s with serial := s.serial.shift w }.endStrobe := by
    simp [State.strobe, hw, hk]
  rw [hshift]
  cases hm : s.pins.linkMode <;> simp [State.endStrobe, Serializer.shift, bitLevel, hk, hm]

/-- With no bits remaining a strobe is the word fetch that ends with it (R110; log 6). -/
theorem State.strobe_of_wordNeeded {s : State} (h : s.wordNeeded = true) : s.strobe = s.fetch.endStrobe := by
  unfold State.strobe
  split
  · rename_i w hw
    have hnone : s.serial.remaining = 0 := by simpa [State.wordNeeded, hw] using h
    rw [if_pos hnone]
  · rfl

theorem State.wordNeeded_of_bits {s : State} {w : OutWord} {k : Nat} (hw : s.serial.word = some w)
    (hk : s.serial.remaining = k + 1) : s.wordNeeded = false := by
  simp [State.wordNeeded, hw, hk]

theorem exec_bitStrobe_of_occurs {s : State} (h : s.strobeOccurs = true) : exec .bitStrobe s = .next s.strobe :=
  if_pos h

theorem exec_wordFetch_of_fetches {s : State} (h : s.FetchesNow) : exec .wordFetch s = .next s.fetch.endStrobe :=
  if_pos h

theorem exec_wordFetch_of_not {s : State} (h : ¬ s.FetchesNow) : exec .wordFetch s = .next s := if_neg h

/-- Settles O23: within a word the strobe is a shift, at its end a fetch. -/
theorem strobesShiftWordsOut : Obligations.StrobesShiftWordsOut := by
  intro s
  refine ⟨s.strobeOccurs_iff, fun hocc w k hw hk => ⟨?_, ?_⟩, fun hfetch => ?_, fun hnone => ⟨?_, ?_⟩⟩
  · rw [exec_bitStrobe_of_occurs hocc, s.strobe_of_bits hw hk]
  · exact exec_wordFetch_of_not fun hfetch => by
      rw [State.FetchesNow, State.wordNeeded_of_bits hw hk] at hfetch
      exact Bool.false_ne_true hfetch.2
  · rw [exec_bitStrobe_of_occurs hfetch.1, exec_wordFetch_of_fetches hfetch, State.strobe_of_wordNeeded hfetch.2]
  · exact if_neg (Bool.eq_false_iff.1 hnone)
  · exact exec_wordFetch_of_not fun hfetch => Bool.eq_false_iff.1 hnone hfetch.1

end Sys2Proof.Machine

/-! ## PIN_RESET_RELEASE (R109, R133, R148). -/

namespace Sys2Proof.Machine

/-- ADR1 is bit 1 of the node address, ADR0 bit 0 (log 20). -/
theorem addressOf_bits (adr1 adr0 : Level) : (addressOf adr1 adr0).getLsbD 1 = decide (adr1 = .high)
    ∧ (addressOf adr1 adr0).getLsbD 0 = decide (adr0 = .high) := by
  cases adr1 <;> cases adr0 <;> decide

/-- The release of a part whose reply queue its reset has emptied, with its READY written out (R109, R133). -/
theorem State.releaseReset_eq {s : State} (h : s.replies = .empty) (lmode adr1 adr0 : Level) :
    s.releaseReset lmode adr1 adr0 = { s with
      pins := { s.pins with
        resetn := .high
        lmode := lmode
        linkMode := if lmode = .high then .master else .follower
        nodeAddress := addressOf adr1 adr0 }
      serial := { s.serial with oclk := if lmode = .high then .high else .undriven }
      replies := ⟨[replyRecord 0x00 0x81 0x80 [0x01, 0x72, 0x08, 0x12, (addressOf adr1 adr0).setWidth 8,
        if lmode = .high then 0x01 else 0x00]], 0, []⟩ } := by
  rw [State.releaseReset, State.ready_of_empty, State.readyPayload_eq]
  · cases lmode <;> rfl
  · exact h

/-- Settles O5: a reset has left both queues empty, so READY has room and IRDY is high. -/
theorem releaseCapturesStrapsAndRaisesReady : Obligations.ReleaseCapturesStrapsAndRaisesReady := by
  intro lmode adr1 adr0 s
  refine ⟨fun hlow hheld => ?_, fun hhigh => ?_⟩
  · have hs := hheld hlow
    have hreplies : s.replies = .empty := by rw [hs]; rfl
    have hcommands : s.commands = [] := by rw [hs]; rfl
    have hexec : exec (.pinResetRelease lmode adr1 adr0) s = .next (s.releaseReset lmode adr1 adr0) := by
      simp only [exec, execPinResetRelease, hlow]
    obtain ⟨hbit1, hbit0⟩ := addressOf_bits adr1 adr0
    refine ⟨_, addressOf adr1 adr0, hbit1, hbit0, hexec, ?_, State.releaseReset_eq hreplies lmode adr1 adr0⟩
    simp [State.releaseReset_eq hreplies, State.irdy, hcommands]
  · simp only [exec, execPinResetRelease, hhigh]

end Sys2Proof.Machine

/-! ## SET_TIMEBASE and SET_TIME (R119, R120). -/

namespace Sys2Proof.Machine

/-- The new prescaler with its count 0; an edge whose advance is due counts 1, unless that completes the new P too
(R119; log 4). -/
theorem TimeBase.setPrescaler_eq (t : TimeBase) (p : Nat) : t.setPrescaler p =
    if t.edge = .advanceDue ∧ 1 < p then { t with prescaler := p, count := 1, edge := .taken }
    else { t with prescaler := p, count := 0 } := by
  obtain ⟨counter, prescaler, count, load, latch, edge⟩ := t
  cases edge with
  | advanceDue =>
    rw [TimeBase.setPrescaler]
    simp only [TimeBase.takeEdge, true_and, Nat.zero_add]
  | taken | afterStrobe => simp [TimeBase.setPrescaler]

/-- An answer after the time base was set. -/
theorem State.TakesNow.answered_setTimeBase {s : State} {r : CmdRecord} {c : Command} {i : Instr}
    (h : s.TakesNow r c i) (t : TimeBase) (st : Status) (payload : List Byte) :
    ({ s.beginTake r with timeBase := t } : State).reply r st payload
      = { s.answered r st.code payload with timeBase := t } := by
  rw [State.reply_of_take h.replyInv h.takeable h.replyNeed (by simp)]
  simp [State.answered, State.beginTake, h.replyNeed]

/-- Settles O49: the argument bytes spell P - 1 and the load, and the answer leaves the time base as the owner set
it. -/
theorem timeCommandsSetThePrescalerAndTheLoad : Obligations.TimeCommandsSetThePrescalerAndTheLoad := by
  intro s r hq ht
  refine ⟨fun v hcode hargs => ?_, fun v hcode hargs => ?_⟩
  · have htake : s.TakesNow r .setTimebase .setTimebase :=
      ⟨hq, ht, hcode, by rw [hargs, length_bytesOf]; rfl, rfl⟩
    have hp : fieldAt r.args 0 2 = v.toNat := by
      rw [hargs, fieldAt_bytesOf]
      exact Nat.mod_eq_of_lt v.isLt
    have hone : 1 < v.toNat + 1 ↔ v ≠ 0 := by
      rw [Nat.lt_add_left_iff_pos, Nat.pos_iff_ne_zero, ne_eq, ne_eq, BitVec.toNat_eq]
      rfl
    rw [htake.exec_eq, Command.owner, State.setTimebase, htake.answered_setTimeBase, hp, TimeBase.setPrescaler_eq]
    simp [hone, Status.code]
  · have htake : s.TakesNow r .setTime .setTime :=
      ⟨hq, ht, hcode, by rw [hargs, length_bytesOf]; rfl, rfl⟩
    have hload : BitVec.ofNat 48 (fieldAt r.args 0 6) = v := by
      rw [hargs, fieldAt_bytesOf]
      exact BitVec.eq_of_toNat_eq (by simp [v.isLt])
    rw [htake.exec_eq, Command.owner, State.setTime, htake.answered_setTimeBase, hload]
    simp [Status.code]

end Sys2Proof.Machine

/-! ## A record's bytes and the room that a notice needs (R124, R128, R131). -/

namespace Sys2Proof.Machine

/-- Adding bytes as words is adding their values mod 256. -/
theorem toNat_foldl_add (bs : List Byte) : (bs.foldl (· + ·) 0).toNat = (bs.map BitVec.toNat).sum % 256 := by
  rw [← List.sum_eq_foldl]
  induction bs with
  | nil => rfl
  | cons b bs ih => rw [List.sum_cons, BitVec.toNat_add, ih, List.map_cons, List.sum_cons, Nat.add_mod_mod]

/-- The bytes of a record add up to 0 mod 256, as a receiver adds them (R128). -/
theorem sum_toNat_replyRecord (tag code status : Byte) (payload : List Byte) :
    ((replyRecord tag code status payload).map BitVec.toNat).sum % 256 = 0 := by
  rw [← toNat_foldl_add, sum_replyRecord]
  rfl

/-- A record place and `n` bytes are free exactly when the queue stays within 16 places and 512 bytes with them; an
overfull queue has no bytes free, so `n` is not 0 (R124). -/
theorem ReplyQueue.room_iff (q : ReplyQueue) {n : Nat} (hn : 0 < n) :
    1 ≤ q.freePlaces ∧ n ≤ q.freeBytes ↔
      q.records.length + q.reservations.length + 1 ≤ 16
      ∧ recordBytes q.records + reservedBytes q.reservations + n ≤ 512 := by
  simp only [ReplyQueue.freePlaces, ReplyQueue.freeBytes]
  omega

/-- The two answers to a notice, by the room after reservations (R131). -/
theorem State.notice_eq (s : State) (code : Byte) (payload : List Byte) : s.notice code payload =
    if s.replies.records.length + s.replies.reservations.length + 1 ≤ 16
      ∧ recordBytes s.replies.records + reservedBytes s.replies.reservations + (5 + payload.length) ≤ 512 then
      { s with replies := s.replies.append (replyRecord 0 code Status.notice.code payload) }
    else s.report .noticesLost 1 .noticeLost := by
  have hlen : 0 < 5 + payload.length := by omega
  simp only [State.notice, s.replies.room_iff hlen]

/-- Settles O13: CHECK is the last byte of a record whose bytes add up to 0, and the room decides between the two
answers to a notice. -/
theorem noticesNeedFreeSpace : Obligations.NoticesNeedFreeSpace := by
  refine ⟨fun tag code status payload _ => ⟨_, rfl, sum_toNat_replyRecord tag code status payload⟩, ?_⟩
  intro s code payload records reservations fits
  rw [State.notice_eq]
  exact ⟨fun hfits => if_pos hfits, fun hfull => if_neg hfull⟩

end Sys2Proof.Machine

/-! ## Latched flags, device counters and the word of a HEALTH place (R136 to R142). -/

namespace Sys2Proof.Machine

/-! ### Events (R139, R142) -/

/-- An event adds its flag to those set before; the flag's position is among the sixteen (R136, R139). -/
theorem Health.getLsbD_set (h : Health) (f : LatchedFlag) (i : Nat) :
    (h.set f).latched.getLsbD i = (h.latched.getLsbD i || decide (i = f.position)) := by
  have hposition : f.position < 16 := by cases f <;> decide
  rw [Health.set, BitVec.getLsbD_or, BitVec.getLsbD_ofNat, Nat.testBit_two_pow, ← Bool.decide_and]
  exact congrArg (h.latched.getLsbD i || ·) (decide_eq_decide.2 (by omega))

/-! ### The bits of the health word (R136 to R138) -/

theorem getLsbD_ite_zero (p : Prop) [Decidable p] (w : BitVec 16) (i : Nat) :
    (if p then w else 0).getLsbD i = (decide p && w.getLsbD i) := by
  split <;> simp [*]

/-- Each live flag stands at its position and at no other (R137). -/
theorem State.getLsbD_liveFlags (s : State) (i : Nat) : s.liveFlags.getLsbD i =
    (decide (s.engine.inForce ≠ .boot) && decide (8 = i)
      || s.engine.pendingSwitch.isSome && decide (9 = i)
      || decide (s.replies.records ≠ []) && decide (10 = i)
      || decide (s.commands ≠ []) && decide (11 = i)
      || decide (s.engine.inForce = .bank .b) && decide (13 = i)
      || s.timeBase.load.isSome && decide (14 = i)) := by
  have h8 : (0x0100 : BitVec 16) = BitVec.twoPow 16 8 := rfl
  have h9 : (0x0200 : BitVec 16) = BitVec.twoPow 16 9 := rfl
  have h10 : (0x0400 : BitVec 16) = BitVec.twoPow 16 10 := rfl
  have h11 : (0x0800 : BitVec 16) = BitVec.twoPow 16 11 := rfl
  have h13 : (0x2000 : BitVec 16) = BitVec.twoPow 16 13 := rfl
  have h14 : (0x4000 : BitVec 16) = BitVec.twoPow 16 14 := rfl
  simp only [State.liveFlags, BitVec.getLsbD_or, getLsbD_ite_zero, h8, h9, h10, h11, h13, h14, BitVec.getLsbD_twoPow,
    Nat.reduceLT, decide_true, Bool.true_and, Bool.decide_eq_true]

theorem getLsbD_latchedPositions (i : Nat) : latchedPositions.getLsbD i = decide (i ≤ 7 ∨ i = 12) := by
  by_cases hi : i < 16
  · revert i
    decide
  · rw [BitVec.getLsbD_of_ge _ _ (by omega)]
    exact (decide_eq_false (by omega)).symm

/-- The parity bit is above the positions it covers. -/
theorem getLsbD_withParity (w : BitVec 16) {i : Nat} (hi : i < 15) : (withParity w).getLsbD i = w.getLsbD i := by
  have h15 : (0x8000 : BitVec 16) = BitVec.twoPow 16 15 := rfl
  unfold withParity
  split
  · simp [h15, show 15 ≠ i by omega]
  · rfl

/-- A latched position carries its flag as it stands (R136 step 1). -/
theorem State.getLsbD_healthWord_latched (s : State) {i : Nat} (hi : i ≤ 7 ∨ i = 12) :
    s.healthWord.getLsbD i = s.health.latched.getLsbD i := by
  have hlive : s.liveFlags.getLsbD i = false := by
    rw [s.getLsbD_liveFlags]
    simp [show 8 ≠ i by omega, show 9 ≠ i by omega, show 10 ≠ i by omega, show 11 ≠ i by omega,
      show 13 ≠ i by omega, show 14 ≠ i by omega]
  rw [State.healthWord, getLsbD_withParity _ (by omega), BitVec.getLsbD_or, BitVec.getLsbD_and,
    getLsbD_latchedPositions, decide_eq_true hi, hlive, Bool.and_true, Bool.or_false]

/-- A position of no latched flag carries its live flag, whatever the flags hold there (R136 step 2). -/
theorem State.getLsbD_healthWord_live (s : State) {i : Nat} (hi : ¬ (i ≤ 7 ∨ i = 12)) (h15 : i < 15) :
    s.healthWord.getLsbD i = s.liveFlags.getLsbD i := by
  rw [State.healthWord, getLsbD_withParity _ h15, BitVec.getLsbD_or, BitVec.getLsbD_and,
    getLsbD_latchedPositions, decide_eq_false hi, Bool.and_false, Bool.false_or]

theorem onesBelow_eq_countP (w : BitVec 16) (k : Nat) :
    onesBelow w k = (List.range k).countP fun i => w.getLsbD i := by
  induction k with
  | zero => rfl
  | succ k ih => simp [onesBelow, ih, List.range_succ, List.countP_singleton]

theorem onesBelow_congr {v w : BitVec 16} {k : Nat} (h : ∀ i < k, v.getLsbD i = w.getLsbD i) :
    onesBelow v k = onesBelow w k := by
  induction k with
  | zero => rfl
  | succ k ih => rw [onesBelow, onesBelow, ih fun i hi => h i (by omega), h k (by omega)]

/-- The parity bit makes the number of ones odd (R138). -/
theorem onesBelow_withParity {w : BitVec 16} (hw : w.getLsbD 15 = false) : onesBelow (withParity w) 16 % 2 = 1 := by
  have hbelow : onesBelow (withParity w) 15 = onesBelow w 15 := onesBelow_congr fun i => getLsbD_withParity w
  have hbit : (withParity w).getLsbD 15 = decide (onesBelow w 15 % 2 = 0) := by
    unfold withParity
    split
    · simp [*]
    · rw [hw, decide_eq_false ‹_›]
  rw [onesBelow, hbelow, hbit]
  by_cases heven : onesBelow w 15 % 2 = 0
  · simp only [heven, decide_true, if_true]
    omega
  · simp only [heven, decide_false, Bool.false_eq_true, if_false]
    omega

/-- A health word has an odd number of ones; no flag stands at the parity bit's position (R136, R138). -/
theorem State.countP_healthWord (s : State) :
    ((List.range 16).countP fun i => s.healthWord.getLsbD i) % 2 = 1 := by
  rw [← onesBelow_eq_countP]
  refine onesBelow_withParity ?_
  rw [BitVec.getLsbD_or, BitVec.getLsbD_and, getLsbD_latchedPositions, s.getLsbD_liveFlags]
  simp

/-! ### What a HEALTH word clears (R140) -/

theorem Health.getLsbD_clearCarried (h : Health) (width i : Nat) :
    (h.clearCarried width).latched.getLsbD i = (h.latched.getLsbD i && decide (width ≤ i)) := by
  by_cases hi : i < 16
  · rw [Health.clearCarried, BitVec.getLsbD_and, BitVec.getLsbD_not, BitVec.getLsbD_ofNat, Nat.testBit_two_pow_sub_one]
    simp only [hi, decide_true, Bool.true_and, ← decide_not, Nat.not_lt]
  · rw [BitVec.getLsbD_of_ge _ _ (by omega), BitVec.getLsbD_of_ge _ _ (by omega), Bool.false_and]

/-- Settles O18: the word and the flags left are those of the model, read off bit by bit. -/
theorem healthWordCarriesAndClearsFlags : Obligations.HealthWordCarriesAndClearsFlags := by
  refine ⟨fun s f => ⟨(s.health.set f).latched, fun i => ?_, rfl⟩, fun s c n f => ?_, ?_⟩
  · rw [Health.getLsbD_set]
    cases f <;> rfl
  · cases c <;> rfl
  · intro s hs u hd
    refine ⟨u.healthWord, (u.health.clearCarried u.geometry.width).latched,
      fun i hi => u.getLsbD_healthWord_latched hi, ?_, ?_, ?_, ?_, ?_, ?_, u.countP_healthWord,
      Health.getLsbD_clearCarried _ _, exec_wordFetch hs hd⟩
    all_goals
      rw [u.getLsbD_healthWord_live (by decide) (by decide), u.getLsbD_liveFlags]
      simp

end Sys2Proof.Machine

/-! ## READ_COUNTERS and CLEAR_COUNTERS at their takes (R143, R144). -/

namespace Sys2Proof.Machine

/-- An answer after the device counters were cleared. -/
theorem State.TakesNow.answered_clearDevice {s : State} {r : CmdRecord} {k : Command} {i : Instr}
    (h : s.TakesNow r k i) (st : Status) (payload : List Byte) :
    (s.beginTake r).clearDevice.reply r st payload = (s.answered r st.code payload).clearDevice := by
  rw [State.reply_of_take h.replyInv h.takeable h.replyNeed (by rfl)]
  simp [State.answered, State.beginTake, State.clearDevice, h.replyNeed]

/-- An answer after the channel table was replaced. -/
theorem State.TakesNow.answered_channels {s : State} {r : CmdRecord} {k : Command} {i : Instr}
    (h : s.TakesNow r k i) (t : Table Channel) (st : Status) (payload : List Byte) :
    ({ s.beginTake r with channels := t } : State).reply r st payload
      = { s.answered r st.code payload with channels := t } := by
  rw [State.reply_of_take h.replyInv h.takeable h.replyNeed (by rfl)]
  simp [State.answered, State.beginTake, h.replyNeed]

/-! ### READ_COUNTERS (R143) -/

/-- The three answers to READ_COUNTERS, by its option (R143). -/
theorem State.TakesNow.readCounters {s : State} {r : CmdRecord} (h : s.TakesNow r .readCounters .readCounters) :
    exec .readCounters s = .next (
      if byteAt r.args 0 = 0x00 then s.answered r 0x00 s.health.counters.payload
      else if byteAt r.args 0 = 0x01 then (s.answered r 0x00 s.health.counters.payload).clearDevice
      else s.answered r 0x10 []) := by
  rw [h.exec_eq]
  simp only [Command.owner, State.readCounters, State.beginTake_health, h.answered, h.answered_clearDevice,
    Status.code]

/-- Settles O50, by the option. -/
theorem readCountersReportsAndClears : Obligations.ReadCountersReportsAndClears := by
  intro s r option hq ht hcode hargs k payload
  have htake : s.TakesNow r .readCounters .readCounters := ⟨hq, ht, hcode, by rw [hargs]; rfl, rfl⟩
  have hoption : byteAt r.args 0 = option := by rw [hargs, byteAt_cons_zero]
  have hpayload : s.health.counters.payload = payload := by
    simp [DeviceCounters.payload, DeviceCounters.inOrder, payload, k]
  rw [htake.readCounters, hoption, hpayload]
  refine ⟨?_, ?_, fun hunknown => ?_⟩
  · rintro rfl
    rfl
  · rintro rfl
    rfl
  · have h0 : option ≠ 0x00 := by rintro rfl; simp at hunknown
    have h1 : option ≠ 0x01 := by rintro rfl; simp at hunknown
    rw [if_neg h0, if_neg h1]

/-! ### CLEAR_COUNTERS (R144) -/

section ClearCounters

variable {s : State} {r : CmdRecord}

theorem State.TakesNow.clear_noScope (h : s.TakesNow r .clearCounters .clearCounters)
    (hscope : 3 ≤ (byteAt r.args 0).toNat) : exec .clearCounters s = .next (s.answered r 0x10 []) := by
  have hrefused : (s.beginTake r).clearCounters r = (s.beginTake r).reply r .badArgument [] := by
    unfold State.clearCounters
    split
    · omega
    · omega
    · omega
    · rfl
  rw [h.exec_eq, Command.owner, hrefused, h.answered, Status.code]

theorem State.TakesNow.clear_device (h : s.TakesNow r .clearCounters .clearCounters)
    (hscope : byteAt r.args 0 = 0x00) : exec .clearCounters s = .next (s.answered r 0x00 []).clearDevice := by
  rw [h.exec_eq]
  simp [Command.owner, State.clearCounters, hscope, h.answered_clearDevice, Status.code]

/-- Scope CHANNEL: the checks of channel number and definition in their order. -/
theorem State.TakesNow.clear_channel (h : s.TakesNow r .clearCounters .clearCounters)
    (hscope : byteAt r.args 0 = 0x01) {c : Nat} (hc : fieldAt r.args 1 2 = c) :
    exec .clearCounters s = .next (
      if channelOk c = false then s.answered r 0x10 []
      else if (s.channel c).keeping = .undefined then s.answered r 0x17 []
      else (s.answered r 0x00 []).setChannel c (s.channel c).clearCounters) := by
  rw [h.exec_eq]
  simp [Command.owner, State.clearCounters, hscope, hc, h.answered, h.answered_setChannel, Status.code]

theorem State.TakesNow.clear_allChannels (h : s.TakesNow r .clearCounters .clearCounters)
    (hscope : byteAt r.args 0 = 0x02) : exec .clearCounters s = .next { s.answered r 0x00 [] with
      channels := Table.update (fun _ ch => ch.clearCounters) s.channels } := by
  have hcleared : (s.beginTake r).clearCounters r = ({ s.beginTake r with
      channels := Table.update (fun _ ch => ch.clearCounters) s.channels } : State).reply r .ok [] := by
    simp [State.clearCounters, hscope]
  rw [h.exec_eq, Command.owner, hcleared, h.answered_channels, Status.code]

end ClearCounters

/-- Every channel's counters cleared, in canonical form: an UNDEFINED channel has none to clear, and a defined one stays
defined (R82, R144). -/
theorem State.PoolInv.clearAll {s : State} (h : s.PoolInv) :
    Table.wf .blank (Table.update (fun _ ch => ch.clearCounters) s.channels) = true
    ∧ ∀ n, Table.get .blank (Table.update (fun _ ch => ch.clearCounters) s.channels) n
        = (s.channel n).clearCounters := by
  obtain ⟨hwf, hdefined, -⟩ := h
  refine ⟨Table.wf_update hwf fun e he hblank => ?_, fun n => Table.get_update n rfl⟩
  obtain ⟨-, hkeeping, -⟩ := hdefined e he
  exact hkeeping (congrArg Channel.keeping hblank)

/-- Settles O51, by the scope. -/
theorem clearCountersClearsItsScope : Obligations.ClearCountersClearsItsScope := by
  intro s r scope c hq ht hcode hc hargs zero
  have htake : s.TakesNow r .clearCounters .clearCounters := ⟨hq, ht, hcode, by rw [hargs]; simp; rfl, rfl⟩
  have hscope : byteAt r.args 0 = scope := by rw [hargs, byteAt_cons_zero]
  have hchannel : fieldAt r.args 1 2 = c := fieldAt_of_eq (before := [scope]) (after := []) (by simp [hargs]) hc
  refine ⟨fun hbad => htake.clear_noScope (hscope ▸ hbad), fun hdevice => htake.clear_device (hscope.trans hdevice),
    fun hone => ?_, fun hall hpool => ?_⟩
  · rw [htake.clear_channel (hscope.trans hone) hchannel]
    simp only [channelOk_eq_false]
    rfl
  · obtain ⟨hwf, hget⟩ := hpool.clearAll
    exact ⟨_, hwf, hget, htake.clear_allChannels (hscope.trans hall)⟩

end Sys2Proof.Machine

/-! ## RESET_PART FULL and PING at their takes (R154, R157, R159). -/

namespace Sys2Proof.Machine

/-! ### The rows that take no record of a single command (R151, R155) -/

theorem exec_resetPartRestart (s : State) : exec .resetPartRestart s =
    s.take (fun r => resetOption r == some .restart) fun _ s => s.restart := rfl

theorem exec_resetPartFull (s : State) : exec .resetPartFull s =
    s.take (fun r => resetOption r == some .full) fun _ s => s.fullReset := rfl

theorem exec_resetPartRefused (s : State) : exec .resetPartRefused s =
    s.take (fun r => commandOf r.code == some .resetPart && resetOption r == none) fun r s =>
      if Command.resetPart.accepts r.args.length then s.reply r .badArgument [] else s.reply r .badLength [] := rfl

theorem exec_unknownCommand (s : State) : exec .unknownCommand s =
    s.take (fun r => commandOf r.code == none) fun r s => s.reply r .unknownCommand [] := rfl

/-! ### RESET_PART FULL (R157, R159) -/

/-- The effects of a FULL reset, with its READY written out (R157, R159). -/
theorem State.fullReset_eq (s : State) : s.fullReset = { s with
    commands := []
    validation := none
    engine := .reset
    bankA := .clear
    bankB := .clear
    channels := []
    freeCells := 2048
    timeBase := { TimeBase.reset with latch := s.timeBase.latch }
    health := .reset
    replies := ⟨[replyRecord 0x00 noticeReady Status.notice.code (s.readyPayload .full)], 0, []⟩ } := by
  rw [State.fullReset, State.ready_of_empty rfl]
  rfl

/-- Settles O36: the take of a well-formed RESET_PART leaves nothing of its own for the reset to clear. -/
theorem fullResetClearsAllButTheLinks : Obligations.FullResetClearsAllButTheLinks := by
  intro s r ht hcode hargs
  have hreset : resetOption r = some .full := by simp [resetOption, hcode, hargs, Command.code]
  rw [exec_resetPartFull, State.take_next ht (by simp [hreset]), State.beginTake_of_reset hreset, State.fullReset_eq,
    State.readyPayload_eq]
  rfl

/-! ### PING (R154) -/

/-- The numbers added up in PING's state byte stand in places of their own. -/
theorem ofNat_stateByte (address : BitVec 2) (master run switching : Bool) :
    BitVec.ofNat 8 (address.toNat + (if master then 4 else 0) + (if run then 8 else 0) + (if switching then 16 else 0))
      = 0#3 ++ BitVec.ofBool switching ++ BitVec.ofBool run ++ BitVec.ofBool master ++ address := by
  revert address master run switching
  decide

/-- PING's state byte, from bit 7 down: three zeros, pending switch, RUN, MASTER, node address (11.5). -/
theorem State.pingState_eq (s : State) : s.pingState = 0#3 ++ BitVec.ofBool s.engine.pendingSwitch.isSome
    ++ BitVec.ofBool (decide (s.engine.inForce ≠ .boot)) ++ BitVec.ofBool (decide (s.pins.linkMode = .master))
    ++ s.pins.nodeAddress := by
  rw [← ofNat_stateByte, State.pingState]
  cases s.pins.linkMode <;> simp

/-- PING's payload reads nothing that the start of a take changes. -/
theorem State.pingPayload_beginTake (s : State) (r : CmdRecord) : (s.beginTake r).pingPayload = s.pingPayload := by
  simp [State.pingPayload, State.pingState]

/-- Part code, revision, state byte and frame count, 0 when absent (R154). -/
theorem State.pingPayload_eq (s : State) : s.pingPayload =
    [0x72, 0x08, 0x12, s.pingState] ++ bytesOf 4 (s.engine.frameCount.elim 0 BitVec.toNat) := by
  have hpart : bytesOf 2 partCode = [0x72, 0x08] := by decide
  cases hcount : s.engine.frameCount <;> simp [State.pingPayload, hpart, hcount, revision]

/-- Settles O34: the payload is read off the part as it stands at the take, its state byte place by place. -/
theorem pingIdentifiesThePart : Obligations.PingIdentifiesThePart := by
  intro s r hq ht hcode hargs
  have htake : s.TakesNow r .ping .ping := ⟨hq, ht, hcode, by rw [hargs]; rfl, rfl⟩
  have hexec : exec .ping s = .next (s.answered r 0x00 s.pingPayload) := by
    rw [htake.exec_eq, Command.owner, State.ping, State.pingPayload_beginTake, htake.answered, Status.code]
  refine ⟨s.pingState, ?_, ?_, ?_, ?_, ?_, ?_, ?_, hexec.trans (by rw [State.pingPayload_eq])⟩
  · rw [State.pingState_eq, BitVec.extractLsb'_append_eq_right]
  all_goals
    rw [State.pingState_eq]
    simp only [BitVec.getLsbD_append]
    simp

end Sys2Proof.Machine

/-! ## When a record is taken, and the refusals at the take (R150 to R155). -/

namespace Sys2Proof.Machine

/-! ### The options of RESET_PART and the reply sizes (R150, R153) -/

theorem commandOf_eq_none {b : Byte} : commandOf b = none ↔ ∀ c : Command, b ≠ c.code := by
  simp only [Option.eq_none_iff_forall_ne_some, ne_eq, commandOf_eq_some]

section Options

variable {r : CmdRecord}

theorem resetOption_eq_restart : resetOption r = some .restart ↔ r.code = 0x02 ∧ r.args = [0x01] := by
  unfold resetOption
  split_ifs <;> simp_all [Command.code]

theorem resetOption_eq_full : resetOption r = some .full ↔ r.code = 0x02 ∧ r.args = [0x02] := by
  unfold resetOption
  split_ifs <;> simp_all [Command.code]

theorem resetOption_eq_none : resetOption r = none ↔ ¬ (r.code = 0x02 ∧ (r.args = [0x01] ∨ r.args = [0x02])) := by
  unfold resetOption
  split_ifs <;> simp_all [Command.code]

end Options

/-- A well-formed RESET_PART reserves nothing, another record the maximum reply size of its code (R150). -/
theorem replyNeed_eq (r : CmdRecord) : replyNeed r =
    if r.code = 0x02 ∧ (r.args = [0x01] ∨ r.args = [0x02]) then none
    else some ((commandOf r.code).elim 5 Command.maxReply) := by
  unfold replyNeed
  split
  · rename_i option hoption
    rw [if_pos]
    by_contra hno
    simp [resetOption_eq_none.2 hno] at hoption
  · rename_i hnone
    rw [if_neg (resetOption_eq_none.1 hnone)]
    cases commandOf r.code <;> rfl

/-- The maximum reply sizes of R153 by code. -/
theorem maxReply_of_code (code : Byte) : (commandOf code).elim 5 Command.maxReply = match code.toNat with
    | 0x01 => 13 | 0x12 => 32 | 0x25 => 37 | 0x30 => 9 | 0x31 => 9 | 0x50 => 29 | _ => 5 := by
  cases hcommand : commandOf code with
  | some c =>
    obtain rfl := commandOf_eq_some.1 hcommand
    cases c <;> rfl
  | none =>
    have hunknown := commandOf_eq_none.1 hcommand
    split
    · exact absurd (BitVec.eq_of_toNat_eq ‹_›) (hunknown .ping)
    · exact absurd (BitVec.eq_of_toNat_eq ‹_›) (hunknown .readChannel)
    · exact absurd (BitVec.eq_of_toNat_eq ‹_›) (hunknown .readBank)
    · exact absurd (BitVec.eq_of_toNat_eq ‹_›) (hunknown .switch)
    · exact absurd (BitVec.eq_of_toNat_eq ‹_›) (hunknown .stop)
    · exact absurd (BitVec.eq_of_toNat_eq ‹_›) (hunknown .readCounters)
    · rfl

theorem maxReply_of_code_pos (code : Byte) : 0 < (commandOf code).elim 5 Command.maxReply := by
  cases commandOf code with
  | none => exact Nat.succ_pos 4
  | some c => exact Nat.lt_of_lt_of_le (Nat.succ_pos 4) c.five_le_maxReply

/-! ### The take that is due, and the take that is not (R150, R160) -/

theorem takesRecord_of_row {c : Command} {i : Instr} (h : c.row = some i) : takesRecord i = true := by
  cases c <;> cases h <;> rfl

/-- The conditions of R150 and R160. -/
theorem State.takeable_iff {s : State} {r : CmdRecord} : s.takeable = some r ↔
    s.pins.resetn = .high ∧ s.validation = none ∧ (∃ rest, s.commands = r :: rest)
      ∧ ∀ n, replyNeed r = some n → 1 ≤ s.replies.freePlaces ∧ n ≤ s.replies.freeBytes := by
  refine ⟨State.takeable_some, ?_⟩
  rintro ⟨hreset, hfree, ⟨rest, hrest⟩, hroom⟩
  cases hneed : replyNeed r with
  | none => simp [State.takeable, hreset, hfree, hrest, hneed]
  | some n => simp [State.takeable, hreset, hfree, hrest, hneed, hroom n hneed]

/-- A take of another sort of record changes nothing (log 1). -/
theorem State.take_of_not_wanted {s : State} {r : CmdRecord} (ht : s.takeable = some r) {want : CmdRecord → Bool}
    (hw : want r = false) (act : CmdRecord → State → State) : s.take want act = .next s := by
  simp [State.take, ht, hw]

/-- Settles O32: the conditions of R150, with the room written as sums, and each row's choice of its records. -/
theorem takesWaitForTheirConditions : Obligations.TakesWaitForTheirConditions := by
  refine ⟨?_, ?_, ?_, ?_⟩
  · intro s r size
    have hsize : (commandOf r.code).elim 5 Command.maxReply = size := maxReply_of_code r.code
    have hroom : (∀ n, replyNeed r = some n → 1 ≤ s.replies.freePlaces ∧ n ≤ s.replies.freeBytes) ↔
        (r.code = 0x02 ∧ (r.args = [0x01] ∨ r.args = [0x02]))
          ∨ 1 ≤ s.replies.freePlaces ∧ size ≤ s.replies.freeBytes := by
      rw [replyNeed_eq, hsize]
      split_ifs with hreset
      · exact iff_of_true nofun (.inl hreset)
      · rw [or_iff_right hreset]
        simp only [Option.some.injEq, forall_eq']
    rw [State.takeable_iff, hroom, s.replies.room_iff (hsize ▸ maxReply_of_code_pos r.code)]
    rfl
  · rintro s c i hrow (hnone | ⟨r, ht, hcode⟩)
    · exact exec_of_not_takeable (takesRecord_of_row hrow) hnone
    · rw [exec_row hrow, State.takeCommand, State.take_of_not_wanted ht (by simpa [commandOf_eq_some] using hcode)]
  · rintro s i (rfl | rfl | rfl | rfl) hnone <;> exact exec_of_not_takeable rfl hnone
  · intro s r ht
    refine ⟨fun h => ?_, fun h => ?_, fun h => ?_, ?_⟩
    · have hoption : resetOption r ≠ some .restart := by
        rw [ne_eq, resetOption_eq_restart, not_and_or]
        exact h
      rw [exec_resetPartRestart, State.take_of_not_wanted ht (by simp [hoption])]
    · have hoption : resetOption r ≠ some .full := by
        rw [ne_eq, resetOption_eq_full, not_and_or]
        exact h
      rw [exec_resetPartFull, State.take_of_not_wanted ht (by simp [hoption])]
    · have hother : commandOf r.code = some .resetPart → resetOption r ≠ none := by
        rw [commandOf_eq_some, ne_eq, resetOption_eq_none, not_not]
        exact fun hcode => ⟨hcode, h.resolve_left (not_not.2 hcode)⟩
      rw [exec_resetPartRefused, State.take_of_not_wanted ht (by simpa [Option.isSome_iff_ne_none] using hother)]
    · rintro ⟨c, hcode⟩
      rw [exec_unknownCommand, State.take_of_not_wanted ht (by simp [hcode])]

/-! ### The refusals (R151, R153, R155) -/

/-- A record of a wrong length is answered at once, by the row of its command (R151 step 4). -/
theorem exec_row_badLength {s : State} {r : CmdRecord} {c : Command} {i : Instr} (hq : s.ReplyInv)
    (ht : s.takeable = some r) (hrow : c.row = some i) (hcode : r.code = c.code)
    (hlen : c.accepts r.args.length = false) : exec i s = .next (s.answered r 0x11 []) := by
  have hc : c ≠ .resetPart := by rintro rfl; cases hrow
  rw [exec_row hrow, State.takeCommand_badLength ht hcode hlen,
    State.answered_of_take hq ht (replyNeed_of_code hcode hc), Status.code]

/-- A record of an unknown code is answered UNKNOWN_COMMAND (R151 step 3). -/
theorem exec_unknownCommand_of_taken {s : State} {r : CmdRecord} (hq : s.ReplyInv) (ht : s.takeable = some r)
    (hcode : ∀ c : Command, r.code ≠ c.code) : exec .unknownCommand s = .next (s.answered r 0x12 []) := by
  have hunknown := commandOf_eq_none.2 hcode
  rw [exec_unknownCommand, State.take_next ht (by simp [hunknown]),
    State.answered_of_take hq ht (replyNeed_of_unknown hunknown), Status.code]

/-- A RESET_PART that names no reset is answered by its length and makes none (R155). -/
theorem exec_resetPartRefused_of_taken {s : State} {r : CmdRecord} (hq : s.ReplyInv) (ht : s.takeable = some r)
    (hcode : r.code = 0x02) (hargs : r.args ≠ [0x01] ∧ r.args ≠ [0x02]) : exec .resetPartRefused s =
      .next (if r.args.length = 1 then s.answered r 0x10 [] else s.answered r 0x11 []) := by
  have hcommand : commandOf r.code = some .resetPart := commandOf_eq_some.2 hcode
  have hoption : resetOption r = none := resetOption_eq_none.2 (by tauto)
  rw [exec_resetPartRefused, State.take_next ht (by simp [hcommand, hoption])]
  simp only [State.answered_of_take hq ht (replyNeed_of_refused hcommand hoption), Status.code, Command.accepts,
    beq_iff_eq]

/-- A command's arguments are a head of `head` bytes with from `low` to `high` groups of `size` bytes. -/
theorem groups_iff (low high head n : Nat) {size : Nat} (hsize : 0 < size) :
    (head + size * low ≤ n ∧ n ≤ head + size * high) ∧ (n - head) % size = 0 ↔
      ∃ k, low ≤ k ∧ k ≤ high ∧ n = head + size * k := by
  constructor
  · rintro ⟨⟨hlow, hhigh⟩, hmod⟩
    obtain ⟨k, hk⟩ := Nat.dvd_of_mod_eq_zero hmod
    have hn : n = head + size * k := by omega
    subst hn
    exact ⟨k, Nat.le_of_mul_le_mul_left (Nat.add_le_add_iff_left.1 hlow) hsize,
      Nat.le_of_mul_le_mul_left (Nat.add_le_add_iff_left.1 hhigh) hsize, rfl⟩
  · rintro ⟨k, hlow, hhigh, rfl⟩
    exact ⟨⟨Nat.add_le_add_left (Nat.mul_le_mul_left size hlow) head,
      Nat.add_le_add_left (Nat.mul_le_mul_left size hhigh) head⟩, by simp⟩

/-- Settles O33: the table of codes, the table of lengths, and the three refusals. -/
theorem refusalsAtTheTakeChangeNothing : Obligations.RefusalsAtTheTakeChangeNothing := by
  refine ⟨fun c => by cases c <;> rfl, fun c n => ?_, fun s r hq ht => ⟨fun c i => exec_row_badLength hq ht,
    exec_unknownCommand_of_taken hq ht, fun hcode hlen => ?_, fun option hcode hargs h1 h2 => ?_⟩⟩
  · cases c with
    | writeSlots => simpa [Command.accepts] using groups_iff 1 9 3 n (Nat.succ_pos 5)
    | writeRotation => simpa [Command.accepts] using groups_iff 0 8 4 n (Nat.succ_pos 5)
    | writePicks => simpa [Command.accepts] using groups_iff 1 16 3 n (Nat.succ_pos 2)
    | _ => exact beq_iff_eq
  · have hone : ∀ b : Byte, r.args ≠ [b] := fun b h => hlen (by rw [h]; rfl)
    rw [exec_resetPartRefused_of_taken hq ht hcode ⟨hone _, hone _⟩, if_neg hlen]
  · have hne : ∀ b : Byte, option ≠ b → r.args ≠ [b] := fun b h => by simpa [hargs] using h
    rw [exec_resetPartRefused_of_taken hq ht hcode ⟨hne _ h1, hne _ h2⟩, if_pos (by rw [hargs]; rfl)]

end Sys2Proof.Machine

/-! ## Good messages: the address filter and the dispatch by kind (R73, R147, R165 to R167). -/

namespace Sys2Proof.Machine

/-! ### Fields of a message (R166, R170) -/

/-- Bytes that are there, read one by one. -/
theorem take_drop_eq {m : List Byte} {off n : Nat} (h : off + n ≤ m.length) :
    (m.drop off).take n = (List.range n).map fun i => m.getD (off + i) 0 := by
  refine List.ext_getElem (by simp; omega) fun i hi _ => ?_
  have hlt : off + i < m.length := by
    simp only [List.length_take, List.length_drop] at hi
    omega
  simp [hlt]

theorem fieldAt_two {m : List Byte} {off : Nat} (h : off + 2 ≤ m.length) :
    fieldAt m off 2 = (m.getD off 0).toNat * 256 + (m.getD (off + 1) 0).toNat := by
  rw [fieldAt, take_drop_eq h]
  exact natOfBytes_pair _ _

theorem toNat_append_byte {w : Nat} (x : BitVec w) (b : Byte) : (x ++ b).toNat = x.toNat * 256 + b.toNat := by
  rw [BitVec.toNat_append, ← Nat.shiftLeft_add_eq_or_of_lt b.isLt, Nat.shiftLeft_eq]

/-- Three bytes spell the word that they make side by side. -/
theorem natOfBytes_triple (a b c : Byte) : natOfBytes [a, b, c] = (a ++ b ++ c).toNat := by
  simp [natOfBytes, toNat_append_byte]

/-- A sample value is spelt by the three bytes at its place. -/
theorem sample_take_drop {m : List Byte} {off : Nat} (h : off + 3 ≤ m.length) :
    BitVec.ofNat 24 (natOfBytes ((m.drop off).take 3)) = m.getD off 0 ++ m.getD (off + 1) 0 ++ m.getD (off + 2) 0 := by
  have hbytes : (m.drop off).take 3 = [m.getD off 0, m.getD (off + 1) 0, m.getD (off + 2) 0] := take_drop_eq h
  rw [hbytes, natOfBytes_triple, BitVec.ofNat_toNat, BitVec.setWidth_eq]

theorem groupsOf_eq_map (size n : Nat) (bs : List Byte) :
    groupsOf size n bs = (List.range n).map fun i => (bs.drop (size * i)).take size := by
  induction n generalizing bs with
  | zero => rfl
  | succ n ih => simp [groupsOf, ih, List.range_succ_eq_map, Function.comp_def, Nat.mul_add, Nat.add_comm]

/-- Bits 3 to 2 of byte 0 (R165). -/
theorem addressField_eq_iff (m : List Byte) (address : BitVec 2) :
    addressField m = address ↔ (m.getD 0 0).toNat / 4 % 4 = address.toNat := by
  rw [addressField, ← BitVec.toNat_inj, BitVec.extractLsb'_toNat, Nat.shiftRight_eq_div_pow]
  rfl

/-! ### Arrivals in body order (R73) -/

theorem State.arriveAll_append (s : State) (c : Nat) (seq : Byte) (vs : List Sample) (v : Sample) :
    s.arriveAll c seq (vs ++ [v]) = (s.arriveAll c seq vs).arrive c (seq + BitVec.ofNat 8 vs.length) v := by
  induction vs generalizing s seq with
  | nil => simp [State.arriveAll]
  | cons w vs ih =>
    have hseq : seq + 1 + BitVec.ofNat 8 vs.length = seq + BitVec.ofNat 8 (w :: vs).length := by
      rw [List.length_cons, BitVec.ofNat_add, BitVec.add_assoc, BitVec.add_comm (1 : Byte)]
      rfl
    rw [List.cons_append, State.arriveAll, ih, hseq, State.arriveAll]

/-- Value i of a body carries the sequence number (first + i) mod 256. -/
theorem State.arriveAll_range (s : State) (c : Nat) (seq : Byte) (value : Nat → Sample) (n : Nat) :
    s.arriveAll c seq ((List.range n).map value) =
      (List.range n).foldl (fun u i => u.arrive c (seq + BitVec.ofNat 8 i) (value i)) s := by
  induction n with
  | zero => rfl
  | succ n ih => simp [List.range_succ, State.arriveAll_append, ih]

/-! ### Dispatch by kind (R166, R167) -/

section Dispatch

variable (s : State) {m : List Byte}

theorem State.dispatch_sample (h : 8 ≤ m.length) : s.dispatch m .sample =
    s.arrive (((m.getD 2 0).toNat * 256 + (m.getD 3 0).toNat) % 1024) (m.getD 4 0)
      (m.getD 5 0 ++ m.getD 6 0 ++ m.getD 7 0) := by
  rw [State.dispatch, messageChannel, fieldAt_two (by omega), fieldAt, sample_take_drop h]
  rfl

theorem State.dispatch_block (h : 6 + 3 * (m.getD 5 0).toNat ≤ m.length) : s.dispatch m .block =
    (List.range (m.getD 5 0).toNat).foldl (fun u i =>
      u.arrive (((m.getD 2 0).toNat * 256 + (m.getD 3 0).toNat) % 1024) (m.getD 4 0 + BitVec.ofNat 8 i)
        (m.getD (6 + 3 * i) 0 ++ m.getD (7 + 3 * i) 0 ++ m.getD (8 + 3 * i) 0)) s := by
  have hvalues : (groupsOf 3 (byteAt m 5).toNat (m.drop 6)).map (fun v => BitVec.ofNat 24 (natOfBytes v)) =
      (List.range (m.getD 5 0).toNat).map fun i =>
        m.getD (6 + 3 * i) 0 ++ m.getD (7 + 3 * i) 0 ++ m.getD (8 + 3 * i) 0 := by
    rw [groupsOf_eq_map, List.map_map]
    refine List.map_congr_left fun i hi => ?_
    have hlt : i < (m.getD 5 0).toNat := List.mem_range.1 hi
    rw [Function.comp_apply, List.drop_drop, sample_take_drop (by omega), Nat.add_right_comm 6 _ 1,
      Nat.add_right_comm 6 _ 2]
  rw [State.dispatch, messageChannel, fieldAt_two (by omega), hvalues, State.arriveAll_range]
  rfl

end Dispatch

/-! ### The completion of a good message (R162, R163, R165) -/

/-- A message that passes the checks is as long as its LEN byte says. -/
theorem judgeMessage_length {i : Intake} {k : MessageKind} (h : judgeMessage i = .ok k) :
    i.buffer.length = (byteAt i.buffer 1).toNat + 4 := by
  unfold judgeMessage at h
  dsimp only at h
  split_ifs at h with _ hlen
  exact not_not.1 hlen

/-- A good SAMPLE holds its whole body (R163). -/
theorem judgeMessage_sample_length {i : Intake} (h : judgeMessage i = .ok .sample) : 8 ≤ i.buffer.length := by
  have hlen := judgeMessage_length h
  have haccepted := judgeMessage_ok h
  simp only [lenAccepted, beq_iff_eq] at haccepted
  omega

/-- A good BLOCK holds the values that its count byte says (R163). -/
theorem judgeMessage_block_length {i : Intake} (h : judgeMessage i = .ok .block) :
    6 + 3 * (byteAt i.buffer 5).toNat ≤ i.buffer.length := by
  have hlen := judgeMessage_length h
  have haccepted := judgeMessage_ok h
  simp only [lenAccepted, Bool.and_eq_true, beq_iff_eq] at haccepted
  obtain ⟨-, hbytes⟩ := haccepted
  omega

/-- A good message returns the interface to IDLE, and is dispatched where its address field is this node's (R165). -/
theorem exec_messageCompletion_of_good {s : State} {k : MessageKind} (hr : s.pins.resetn = .high)
    (hi : s.intake.receiving = true) (h : judgeMessage s.intake = .ok k) : exec .messageCompletion s = .next (
      let m := s.intake.buffer
      let t : State := { s with pins := { s.pins with ifrm := .high }, intake := .idle }
      if (m.getD 0 0).toNat / 4 % 4 = s.pins.nodeAddress.toNat then t.dispatch m k else t) := by
  simp only [exec, execMessageCompletion, hr, hi, State.completeMessage, h, addressField_eq_iff, and_self,
    if_true]

/-- Settles O8: the address field decides whether a good message is dispatched, and its length is that of its body. -/
theorem goodMessagesAreDispatched : Obligations.GoodMessagesAreDispatched := by
  refine ⟨fun s => rfl, ?_⟩
  intro s k hr hi hk m t c
  rw [exec_messageCompletion_of_good hr hi hk]
  refine ⟨fun hother => by rw [if_neg hother]; rfl, fun hmine => ?_⟩
  rw [if_pos hmine]
  cases k with
  | sample => exact congrArg Host.Outcome.next (State.dispatch_sample t (judgeMessage_sample_length hk))
  | block => exact congrArg Host.Outcome.next (State.dispatch_block t (judgeMessage_block_length hk))
  | command => rfl

end Sys2Proof.Machine

/-! ## The check sum of a message, carried on over its own two bytes (R164). -/

namespace Sys2Proof.Machine

/-! ### The register under its own bits -/

/-- A bit that equals bit 15 cancels it: the register is shifted alone. -/
theorem crcBit_own (reg : BitVec 16) : crcBit reg (reg.getLsbD 15) = reg <<< 1 := by
  simp [crcBit]

/-- The register's own bits, from bit 15 downward, shift it out bit by bit. -/
theorem foldl_crcBit_own (reg : BitVec 16) {n : Nat} (h : n ≤ 16) :
    (List.range n).foldl (fun r i => crcBit r (reg.getLsbD (15 - i))) reg = reg <<< n := by
  induction n with
  | zero => simp
  | succ n ih =>
    have htop : reg.getLsbD (15 - n) = (reg <<< n).getLsbD 15 := by
      simp only [BitVec.getLsbD_shiftLeft, show ¬ 15 < n by omega]
      simp
    rw [List.range_succ, List.foldl_append, ih (by omega), List.foldl_cons, List.foldl_nil, htop, crcBit_own,
      BitVec.shiftLeft_add]

/-- The more significant byte of the register, taken in, shifts it by one byte. -/
theorem crcByte_own (reg : BitVec 16) : crcByte reg (reg.extractLsb' 8 8) = reg <<< 8 := by
  rw [← foldl_crcBit_own reg (show 8 ≤ 16 by decide), crcByte]
  simp [List.range_succ, BitVec.getLsbD_extractLsb']

theorem crc_append (as bs : List Byte) : crc (as ++ bs) = bs.foldl crcByte (crc as) :=
  List.foldl_append

/-- The check-sum bytes leave 0 in the register: each shifts out the byte that it equals. -/
theorem crc_append_own (bs : List Byte) :
    crc (bs ++ [(crc bs).extractLsb' 8 8, (crc bs).extractLsb' 0 8]) = 0 := by
  have hlow : (crc bs).extractLsb' 0 8 = (crc bs <<< 8).extractLsb' 8 8 := by
    refine BitVec.eq_of_getLsbD_eq fun i hi => ?_
    simp [hi]
    omega
  calc crc (bs ++ [(crc bs).extractLsb' 8 8, (crc bs).extractLsb' 0 8])
      = crcByte (crcByte (crc bs) ((crc bs).extractLsb' 8 8)) ((crc bs).extractLsb' 0 8) := crc_append _ _
    _ = crc bs <<< 8 <<< 8 := by rw [crcByte_own, hlow, crcByte_own]
    _ = 0 := by rw [← BitVec.shiftLeft_add]; exact BitVec.shiftLeft_eq_zero (by decide)

/-- Settles O9: start, order and step are the model's own, and the residue is that of the register's own bytes. -/
theorem checkSumResidueIsZero : Obligations.CheckSumResidueIsZero := by
  refine ⟨rfl, fun bs b => ?_, by decide +kernel, crc_append_own⟩
  rw [crc_append]
  rfl

end Sys2Proof.Machine

/-! ## Reception of a message on the intake lines, and the checks at its completion (R161 to R163, R168). -/

namespace Sys2Proof.Machine

/-! ### Completion checks (R162, R163) -/

/-- A field of two bytes is the word that they make side by side. -/
theorem fieldAt_two_append {m : List Byte} {off : Nat} (h : off + 2 ≤ m.length) :
    fieldAt m off 2 = (m.getD off 0 ++ m.getD (off + 1) 0).toNat := by
  rw [fieldAt_two h, toNat_append_byte]

/-- The check sum agrees with the last two bytes, read as one word (R164). -/
theorem crc_toNat_ne_fieldAt_iff {m : List Byte} (h : 4 ≤ m.length) (c : BitVec 16) :
    c.toNat ≠ fieldAt m (m.length - 2) 2 ↔ c ≠ m.getD (m.length - 2) 0 ++ m.getD (m.length - 1) 0 := by
  rw [fieldAt_two_append (by omega), show m.length - 2 + 1 = m.length - 1 by omega, ne_eq, BitVec.toNat_inj]

/-- Byte 0 names no kind: a spare bit is set, or the kind is not 1, 2 or 3 (R162 check 4). -/
theorem kindOf_eq_none {b : Byte} (h : b.toNat % 4 ≠ 0 ∨ b.toNat / 16 = 0 ∨ 3 < b.toNat / 16) : kindOf b = none := by
  unfold kindOf
  split_ifs
  · rfl
  · split
    · omega
    · omega
    · omega
    · rfl

theorem kindOf_eq_some {b : Byte} (h : ¬ (b.toNat % 4 ≠ 0 ∨ b.toNat / 16 = 0 ∨ 3 < b.toNat / 16)) :
    kindOf b = some (if b.toNat / 16 = 1 then .sample else if b.toNat / 16 = 2 then .block else .command) := by
  obtain ⟨hspare, hzero, hle⟩ : b.toNat % 4 = 0 ∧ 1 ≤ b.toNat / 16 ∧ b.toNat / 16 ≤ 3 := by omega
  rw [kindOf, if_neg (not_not.2 hspare)]
  interval_cases b.toNat / 16
  · rfl
  · rfl
  · rfl

theorem lenAccepted_sample_iff (m : List Byte) : lenAccepted .sample m = true ↔ (m.getD 1 0).toNat = 6 :=
  beq_iff_eq

theorem lenAccepted_block_iff (m : List Byte) : lenAccepted .block m = true ↔
    1 ≤ (m.getD 5 0).toNat ∧ (m.getD 5 0).toNat ≤ 16 ∧ (m.getD 1 0).toNat = 4 + 3 * (m.getD 5 0).toNat := by
  simp [lenAccepted, byteAt, and_assoc]

theorem lenAccepted_command_iff (m : List Byte) :
    lenAccepted .command m = true ↔ 2 ≤ (m.getD 1 0).toNat ∧ (m.getD 1 0).toNat ≤ 62 := by
  simp [lenAccepted, byteAt]

/-- A message that fails a check returns the interface to IDLE and is counted (R162). -/
theorem exec_messageCompletion_of_error {s : State} {c : DeviceCounter} (hr : s.pins.resetn = .high)
    (hi : s.intake.receiving = true) (h : judgeMessage s.intake = .error c) : exec .messageCompletion s =
      .next ({ s with pins := { s.pins with ifrm := .high }, intake := .idle }.report c 1 .intakeErr) := by
  simp only [exec, execMessageCompletion, hr, hi, State.completeMessage, h, and_self, if_true]

/-- In IDLE and with RESETN asserted no message is received (R161, R168). -/
theorem State.not_receiving {s : State} (h : s.pins.resetn = .low ∨ s.intake.receiving = false) :
    ¬ (s.pins.resetn = .high ∧ s.intake.receiving = true) := by
  rintro ⟨hr, hi⟩
  rcases h with hlow | hidle
  · cases hlow.symm.trans hr
  · cases hidle.symm.trans hi

/-- A rise of IFRM completes nothing in IDLE or with RESETN asserted (R161, R168). -/
theorem exec_messageCompletion_ignored {s : State} (h : s.pins.resetn = .low ∨ s.intake.receiving = false) :
    exec .messageCompletion s = .next { s with pins := { s.pins with ifrm := .high } } :=
  if_neg (State.not_receiving h)

/-- Settles O7: each check of the model is the check of R162 at its place. -/
theorem messageChecksAreMadeInOrder : Obligations.MessageChecksAreMadeInOrder := by
  refine ⟨fun i => ?_, fun s => ⟨fun c => exec_messageCompletion_of_error, exec_messageCompletion_ignored⟩⟩
  refine ite_congr rfl (fun _ => rfl) fun hframing => ?_
  refine ite_congr rfl (fun _ => rfl) fun _ => ?_
  have hlong : 4 ≤ i.buffer.length := not_lt.1 fun hshort => hframing (.inr (.inl hshort))
  refine ite_congr (propext (crc_toNat_ne_fieldAt_iff hlong _)) (fun _ => rfl) fun _ => ?_
  rw [byteAt]
  by_cases hnone : (i.buffer.getD 0 0).toNat % 4 ≠ 0 ∨ (i.buffer.getD 0 0).toNat / 16 = 0 ∨
      3 < (i.buffer.getD 0 0).toNat / 16
  · rw [kindOf_eq_none hnone, if_pos hnone]
  rw [kindOf_eq_some hnone, if_neg hnone]
  by_cases hsample : (i.buffer.getD 0 0).toNat / 16 = 1
  · rw [if_pos hsample, if_pos hsample]
    exact if_congr (lenAccepted_sample_iff _) rfl rfl
  rw [if_neg hsample, if_neg hsample]
  by_cases hblock : (i.buffer.getD 0 0).toNat / 16 = 2
  · rw [if_pos hblock, if_pos hblock]
    exact if_congr (lenAccepted_block_iff _) rfl rfl
  · rw [if_neg hblock, if_neg hblock]
    exact if_congr (lenAccepted_command_iff _) rfl rfl

/-! ### Reception (R161) -/

/-- The number that bits spell, the first the most significant. -/
theorem testBit_foldl_bits (bits : List Bool) (j : Nat) :
    (bits.foldl (fun n (b : Bool) => 2 * n + b.toNat) 0).testBit j = bits.reverse.getD j false := by
  induction bits using List.reverseRecOn generalizing j with
  | nil => simp
  | append_singleton bits b ih =>
    rw [List.foldl_append, List.foldl_cons, List.foldl_nil, List.reverse_append, ← Nat.bit_val]
    cases j with
    | zero => exact Nat.testBit_bit_zero _ _
    | succ j => exact (Nat.testBit_bit_succ _ _ _).trans (ih j)

/-- The first bit received is the most significant of the byte (R161). -/
theorem byteOfBits_getLsbD {bits : List Bool} (h : bits.length = 8) {i : Nat} (hi : i < 8) :
    (byteOfBits bits).getLsbD (7 - i) = bits.getD i false := by
  rw [byteOfBits, BitVec.getLsbD_ofNat, testBit_foldl_bits, List.getD_reverse _ (by omega), h]
  simp [show 7 - i < 8 by omega, show 7 - (7 - i) = i by omega]

section Reception

variable (i : Intake) (bit : Bool)

theorem Intake.receive_bit (h : i.bits.length < 7) : i.receive bit = { i with bits := i.bits ++ [bit] } :=
  if_pos (by simp; omega)

theorem Intake.receive_byte (hbits : i.bits.length = 7) (h : i.buffer.length < 66) :
    i.receive bit = { i with bits := [], buffer := i.buffer ++ [byteOfBits (i.bits ++ [bit])] } := by
  simp [Intake.receive, hbits, h]

theorem Intake.receive_overlong (hbits : i.bits.length = 7) (h : 66 ≤ i.buffer.length) :
    i.receive bit = { i with bits := [], overlong := true } := by
  simp [Intake.receive, hbits, show ¬ i.buffer.length < 66 by omega]

end Reception

/-! ### The lines (R161, R168) -/

section Lines

variable {s : State}

theorem exec_ifrmFall_of_high (h : s.pins.ifrm = .high) : exec .ifrmFall s = .next (
    let t : State := { s with pins := { s.pins with ifrm := .low } }
    if s.pins.resetn = .high ∧ ¬ s.intake.receiving then { t with intake := ⟨true, [], [], false⟩ } else t) := by
  rw [exec, execIfrmFall, h]
  exact (apply_ite Host.Outcome.next _ _ _).symm

theorem exec_ifrmFall_of_low (h : s.pins.ifrm = .low) : exec .ifrmFall s = .next s := by
  rw [exec, execIfrmFall, h]

theorem exec_iclkRisingEdge_receiving (idat : Level) (hr : s.pins.resetn = .high) (hi : s.intake.receiving = true) :
    exec (.iclkRisingEdge idat) s = .next { s with intake := s.intake.receive (decide (idat = .high)) } :=
  if_pos ⟨hr, hi⟩

theorem exec_iclkRisingEdge_ignored (idat : Level) (h : s.pins.resetn = .low ∨ s.intake.receiving = false) :
    exec (.iclkRisingEdge idat) s = .next s :=
  if_neg (State.not_receiving h)

end Lines

/-- Settles O6: at the lines' edges, by the level of IFRM and by the bits and bytes that are held. -/
theorem intakeLinesReceiveAMessage : Obligations.IntakeLinesReceiveAMessage := by
  intro s
  refine ⟨fun hifrm hr hidle => ?_, fun hifrm hr => ?_, exec_ifrmFall_of_low, fun idat =>
    ⟨fun hr hi => ?_, exec_iclkRisingEdge_ignored idat⟩⟩
  · simp [exec_ifrmFall_of_high hifrm, hr, hidle]
  · simp [exec_ifrmFall_of_high hifrm, hr]
  rw [exec_iclkRisingEdge_receiving idat hr hi]
  refine ⟨fun hbits => ?_, fun hbits hroom => ⟨_, fun i hlt => byteOfBits_getLsbD (by simp [hbits]) hlt, ?_⟩,
    fun hbits hfull => ?_⟩
  · rw [Intake.receive_bit _ _ hbits]
  · rw [Intake.receive_byte _ _ hbits hroom]
  · rw [Intake.receive_overlong _ _ hbits hfull]

end Sys2Proof.Machine

/-! ## Slot descriptors and picks in their bytes, and read back from them (11.4, R4, R173). -/

namespace Sys2Proof.Machine

/-! ### Fields of a descriptor and of a pick -/

/-- The two more significant bits of a byte, as a number. -/
theorem toNat_div_64 (b : Byte) : b.toNat / 64 = 2 * (b.getLsbD 7).toNat + (b.getLsbD 6).toNat := by
  have hlt := b.isLt
  rw [BitVec.getLsbD, BitVec.getLsbD, Nat.toNat_testBit, Nat.toNat_testBit]
  omega

/-- The five less significant bits of a byte, as a number. -/
theorem toNat_mod_32 (b : Byte) : b.toNat % 32 = (b.extractLsb' 0 5).toNat := by
  rw [BitVec.extractLsb'_toNat, Nat.shiftRight_zero]

theorem exists_byte {n : Nat} (h : n < 256) : ∃ b : Byte, b.toNat = n :=
  ⟨.ofNat 8 n, Nat.mod_eq_of_lt h⟩

theorem exists_bytePair {n : Nat} (h : n < 65536) : ∃ i j : Byte, i.toNat * 256 + j.toNat = n := by
  obtain ⟨i, hi⟩ := exists_byte (show n / 256 < 256 by omega)
  obtain ⟨j, hj⟩ := exists_byte (Nat.mod_lt n (show 0 < 256 by decide))
  exact ⟨i, j, by rw [hi, hj, Nat.div_add_mod']⟩

theorem exists_append_bytes (v : BitVec 16) : ∃ i j : Byte, i ++ j = v := by
  obtain ⟨i, j, h⟩ := exists_bytePair v.isLt
  exact ⟨i, j, BitVec.eq_of_toNat_eq ((toNat_append_byte i j).trans h)⟩

/-- The field after the head of a descriptor or pick. -/
theorem fieldAt_head (head i j : Byte) (rest : List Byte) :
    fieldAt (head :: i :: j :: rest) 1 2 = i.toNat * 256 + j.toNat :=
  natOfBytes_pair i j

/-! ### Descriptors (R4, R173) -/

section Descriptor

variable (b₁ b₂ b₃ b₄ b₅ : Byte)

theorem decodeSlot_const : decodeSlot [0x01, b₁, b₂, b₃, b₄, b₅] = some (.const (b₁ ++ b₂)) := by
  have hvalue : BitVec.ofNat 16 (fieldAt [0x01, b₁, b₂, b₃, b₄, b₅] 1 2) = b₁ ++ b₂ := by
    rw [fieldAt_head, ← toNat_append_byte, BitVec.ofNat_toNat, BitVec.setWidth_eq]
  exact congrArg (fun v => some (Slot.const v)) hvalue

theorem decodeSlot_channel : decodeSlot [0x08, b₁, b₂, b₃, b₄, b₅] = some (.channel (b₁.toNat * 256 + b₂.toNat)
    (if b₃.getLsbD 0 = true then .held else .capture) (b₃.getLsbD 1) b₄.toNat b₅.toNat) := by
  rw [← fieldAt_head 0x08 b₁ b₂ [b₃, b₄, b₅]]
  rfl

theorem decodeSlot_packed :
    decodeSlot [0x09, b₁, b₂, b₃, b₄, b₅] = some (.packed (b₁.toNat * 256 + b₂.toNat) b₃.toNat) := by
  rw [← fieldAt_head 0x09 b₁ b₂ [b₃, b₄, b₅]]
  rfl

/-- The kind codes that the table of 11.4 does not list. -/
theorem decodeSlot_of_unknown {kind : Byte} (h : 0x0B ≤ kind.toNat) :
    decodeSlot [kind, b₁, b₂, b₃, b₄, b₅] = none := by
  rw [decodeSlot, byteAt_cons_zero]
  split
  case h_12 => rfl
  all_goals omega

end Descriptor

theorem encodeSlot_const (high low : Byte) : encodeSlot (.const (high ++ low)) = [0x01, high, low, 0, 0, 0] := by
  rw [encodeSlot, toNat_append_byte, bytesOf_pair]
  rfl

theorem encodeSlot_time (shift width : Byte) :
    encodeSlot (.time shift.toNat width.toNat) = [0x05, shift, width, 0, 0, 0] := by
  simp [encodeSlot]

theorem encodeSlot_channel (high low shift width : Byte) (m : RefMode) (signed : Bool) :
    encodeSlot (.channel (high.toNat * 256 + low.toNat) m signed shift.toNat width.toNat)
      = [0x08, high, low, (match m, signed with
          | .capture, false => 0x00 | .held, false => 0x01 | .capture, true => 0x02 | .held, true => 0x03),
        shift, width] := by
  cases m <;> cases signed <;> simp [encodeSlot, bytesOf_pair]

theorem encodeSlot_packed (high low count : Byte) :
    encodeSlot (.packed (high.toNat * 256 + low.toNat) count.toNat) = [0x09, high, low, count, 0, 0] := by
  simp [encodeSlot, bytesOf_pair]

theorem encodeSlot_rotate (l : Byte) : encodeSlot (.rotate l.toNat) = [0x0A, l, 0, 0, 0, 0] := by
  simp [encodeSlot]

/-- A descriptor that passes its write-time check is read back: each of its fields is what some bytes spell. -/
theorem decodeSlot_encodeSlot {d : Slot} (h : d.accepted = true) : decodeSlot (encodeSlot d) = some d := by
  rw [Slot.accepted_iff] at h
  cases d with
  | empty | fill | frameIndex | frameCount | health | reply => rfl
  | const v =>
    obtain ⟨high, low, rfl⟩ := exists_append_bytes v
    rw [encodeSlot_const, decodeSlot_const]
  | time s w =>
    obtain ⟨hs, -, hw, -⟩ := h
    obtain ⟨shift, rfl⟩ := exists_byte (show s < 256 by omega)
    obtain ⟨width, rfl⟩ := exists_byte (show w < 256 by omega)
    rw [encodeSlot_time]
    rfl
  | channel c m signed s w =>
    obtain ⟨-, hc, hs, -, hw, -⟩ := h
    obtain ⟨high, low, rfl⟩ := exists_bytePair (show c < 65536 by omega)
    obtain ⟨shift, rfl⟩ := exists_byte (show s < 256 by omega)
    obtain ⟨width, rfl⟩ := exists_byte (show w < 256 by omega)
    rw [encodeSlot_channel, decodeSlot_channel]
    cases m <;> cases signed <;> rfl
  | packed a n =>
    obtain ⟨ha, -, hn, -⟩ := h
    obtain ⟨high, low, rfl⟩ := exists_bytePair (show a < 65536 by omega)
    obtain ⟨count, rfl⟩ := exists_byte (show n < 256 by omega)
    rw [encodeSlot_packed, decodeSlot_packed]
  | rotate l =>
    obtain ⟨list, rfl⟩ := exists_byte (show l < 256 by omega)
    rw [encodeSlot_rotate]
    rfl

/-! ### Picks (R173) -/

theorem decodePick_bytes (b₀ b₁ b₂ : Byte) : decodePick [b₀, b₁, b₂] = match b₀.getLsbD 7, b₀.getLsbD 6 with
    | false, false => .unset
    | false, true => .channelBit (b₁.toNat * 256 + b₂.toNat) (b₀.extractLsb' 0 5).toNat
        (if b₀.getLsbD 5 = true then .held else .capture)
    | true, false => .zero
    | true, true => .one := by
  rw [decodePick, byteAt_cons_zero, toNat_div_64, toNat_mod_32, fieldAt_head]
  cases b₀.getLsbD 7 <;> cases b₀.getLsbD 6 <;> rfl

theorem encodePick_channelBit (high low : Byte) (bit : BitVec 5) (m : RefMode) :
    encodePick (.channelBit (high.toNat * 256 + low.toNat) bit.toNat m)
      = [(match m with | .capture => 0x40 | .held => 0x60) + bit.setWidth 8, high, low] := by
  cases m <;> simp only [encodePick, bytesOf_pair, BitVec.ofNat_add, BitVec.ofNat_toNat] <;> rfl

/-- Byte 0 of a channel-bit pick: type and mode, then the bit number. -/
theorem pickHead_eq_append (m : RefMode) (bit : BitVec 5) :
    (match m with | .capture => 0x40 | .held => 0x60 : Byte) + bit.setWidth 8
      = (match m with | .capture => 0b010#3 | .held => 0b011#3) ++ bit := by
  have hlt := bit.isLt
  refine BitVec.eq_of_toNat_eq ?_
  rw [BitVec.toNat_append, ← Nat.shiftLeft_add_eq_or_of_lt hlt]
  cases m <;> simp [BitVec.toNat_add] <;> omega

/-- A pick that passes its write-time check is read back: its bit number stays below the mode and the type. -/
theorem decodePick_encodePick {p : Pick} (h : p.accepted = true) : decodePick (encodePick p) = p := by
  rw [Pick.accepted_iff] at h
  cases p with
  | unset | zero | one => rfl
  | channelBit c b m =>
    obtain ⟨-, hc, hb⟩ := h
    obtain ⟨high, low, rfl⟩ := exists_bytePair (show c < 65536 by omega)
    obtain ⟨bit, rfl⟩ : ∃ bit : BitVec 5, bit.toNat = b := ⟨.ofNat 5 b, Nat.mod_eq_of_lt (by omega)⟩
    rw [encodePick_channelBit, pickHead_eq_append, decodePick_bytes, BitVec.extractLsb'_append_eq_right]
    rw [BitVec.getLsbD_append, BitVec.getLsbD_append, BitVec.getLsbD_append]
    cases m <;> rfl

/-- Settles O60: the bytes kind by kind and type by type, and each field read back because its check makes it fit. -/
theorem descriptorsAndPicksRoundTrip : Obligations.DescriptorsAndPicksRoundTrip := by
  refine ⟨fun b₁ b₂ b₃ b₄ b₅ => ?_, decodePick_bytes, ?_, encodeSlot_const, encodeSlot_time, encodeSlot_channel,
    encodeSlot_packed, encodeSlot_rotate, ?_, encodePick_channelBit,
    fun d h => ⟨decodeSlot_encodeSlot h, length_encodeSlot d⟩, fun p h => ⟨decodePick_encodePick h, length_encodePick p⟩⟩
  · exact ⟨rfl, decodeSlot_const .., rfl, rfl, rfl, rfl, rfl, rfl, decodeSlot_channel .., decodeSlot_packed .., rfl,
      fun _ => decodeSlot_of_unknown b₁ b₂ b₃ b₄ b₅⟩
  · exact ⟨rfl, rfl, rfl, rfl, rfl, rfl⟩
  · exact ⟨rfl, rfl, rfl⟩

end Sys2Proof.Machine

/-! ## Every command answers a next state and leaves the queue of waiting commands: one lemma for each operation, and
the commands put together from them. -/

namespace Sys2Proof.Machine

/-! ### Fetches, strobes and REFCLK edges (R28, R46, R110, R118) -/

@[simp] theorem State.atWord_pending (s : State) : s.atWord.pending = s.pending := by
  unfold State.atWord
  split
  · obtain ⟨_, _, _, _, _, _, _, _, _, _, _, _, _, _, _, _, _, _, e⟩ := s.frameStart_frame
    rw [e]
  · rfl

@[simp] theorem State.content_pending (s : State) (p : Nat) (d : Slot) : (s.content p d).1.pending = s.pending := by
  obtain ⟨_, _, _, _, e⟩ := s.content_frame p d
  rw [e]

@[simp] theorem State.endStrobe_pending (s : State) : s.endStrobe.pending = s.pending := rfl

@[simp] theorem State.fetch_pending (s : State) : s.fetch.pending = s.pending := by
  rw [← s.fetch.endStrobe_pending, s.fetch_eq]
  simp

@[simp] theorem State.strobe_pending (s : State) : s.strobe.pending = s.pending := by
  unfold State.strobe
  split
  · split
    · simp
    · rfl
  · simp

@[simp] theorem State.completeValidation_pending (s : State) : s.completeValidation.pending = s.pending := by
  unfold State.completeValidation
  split
  · split
    · simp [State.completeFound]
    · simp [State.completePassed]
    · rfl
    · rfl
  · rfl

@[simp] theorem State.advanceTime_pending (s : State) : s.advanceTime.pending = s.pending := rfl

@[simp] theorem State.finishEdge_pending (s : State) : s.finishEdge.pending = s.pending := by
  unfold State.finishEdge
  dsimp only
  split <;> simp

@[simp] theorem State.refclkEdge_pending (s : State) (order : EdgeOrder) :
    (s.refclkEdge order).pending = s.pending := by
  simp [State.refclkEdge, State.validatePeriod_eq]

/-! ### The intake link (R161 to R167) -/

@[simp] theorem State.dispatch_pending (s : State) (m : List Byte) (k : MessageKind) :
    (s.dispatch m k).pending = s.pending := by
  obtain ⟨_, _, _, _, _, e⟩ := s.dispatch_frame m k
  rw [e]

@[simp] theorem State.completeMessage_pending (s : State) : s.completeMessage.pending = s.pending := by
  unfold State.completeMessage
  dsimp only
  split
  · rfl
  · split <;> simp

/-! ### Resets (R66, R109, R158, R159) -/

@[simp] theorem State.ready_pending (s : State) (cause : ResetCause) : (s.ready cause).pending = s.pending := by
  simp [State.ready]

@[simp] theorem State.pinReset_pending (s : State) (lmode : Level) : (s.pinReset lmode).pending = s.pending := rfl

@[simp] theorem State.releaseReset_pending (s : State) (lmode adr1 adr0 : Level) :
    (s.releaseReset lmode adr1 adr0).pending = s.pending := by
  simp [State.releaseReset]

@[simp] theorem State.restart_pending (s : State) : s.restart.pending = s.pending := by
  simp [State.restart]

@[simp] theorem State.fullReset_pending (s : State) : s.fullReset.pending = s.pending := by
  simp [State.fullReset]

/-! ### The owner blocks of the catalogue (R153) -/

theorem State.defineChannel_pending (s : State) (r : CmdRecord) : (s.defineChannel r).pending = s.pending := by
  have hredefine : ∀ c ch d old new, (s.redefineQueued c ch d old new).pending = s.pending := by
    intro c ch d old new
    unfold State.redefineQueued
    dsimp only
    split <;> rfl
  unfold State.defineChannel
  dsimp only
  split
  · rfl
  split
  · rfl
  split
  · rfl
  · rfl
  · exact hredefine _ _ _ _ _
  all_goals split <;> rfl

theorem State.undefineChannel_pending (s : State) (r : CmdRecord) : (s.undefineChannel r).pending = s.pending := by
  unfold State.undefineChannel
  dsimp only
  split_ifs <;> rfl

theorem State.readChannel_pending (s : State) (r : CmdRecord) : (s.readChannel r).pending = s.pending := by
  unfold State.readChannel
  dsimp only
  split_ifs <;> rfl

theorem State.edit_pending (s : State) (r : CmdRecord) (change : Bank → Option Bank) :
    (s.edit r change).pending = s.pending := by
  unfold State.edit
  split
  · rfl
  split
  · rfl
  · rfl
  · rfl
  split <;> simp

theorem State.readBank_pending (s : State) (r : CmdRecord) : (s.readBank r).pending = s.pending := by
  unfold State.readBank
  split
  · rfl
  split <;> rfl

theorem State.switch_pending (s : State) (r : CmdRecord) : (s.switch r).pending = s.pending := by
  unfold State.switch
  split
  · rfl
  · split_ifs <;> simp

@[simp] theorem State.cancelSwitch_pending (s : State) (x : BankId) (tag : Byte) :
    (s.cancelSwitch x tag).pending = s.pending := by
  simp [State.cancelSwitch]

@[simp] theorem State.makeStopPending_pending (s : State) (tag : Byte) :
    (s.makeStopPending tag).pending = s.pending := rfl

theorem State.stop_pending (s : State) (r : CmdRecord) : (s.stop r).pending = s.pending := by
  unfold State.stop
  split <;> simp

theorem State.readCounters_pending (s : State) (r : CmdRecord) : (s.readCounters r).pending = s.pending := by
  unfold State.readCounters
  dsimp only
  split_ifs <;> rfl

theorem State.clearCounters_pending (s : State) (r : CmdRecord) : (s.clearCounters r).pending = s.pending := by
  unfold State.clearCounters
  dsimp only
  split
  · rfl
  · split_ifs <;> rfl
  · rfl
  · rfl

theorem Command.owner_pending (c : Command) (r : CmdRecord) (s : State) : (c.owner r s).pending = s.pending := by
  cases c with
  | resetPart | ping | setTimebase | setTime => rfl
  | defineChannel => exact s.defineChannel_pending r
  | undefineChannel => exact s.undefineChannel_pending r
  | readChannel => exact s.readChannel_pending r
  | setFrame | writeSlots | writeRotation | writePicks | clearBank =>
    rw [Command.owner_of_edits rfl]
    exact s.edit_pending r _
  | readBank => exact s.readBank_pending r
  | switch => exact s.switch_pending r
  | stop => exact s.stop_pending r
  | readCounters => exact s.readCounters_pending r
  | clearCounters => exact s.clearCounters_pending r

/-! ### The outcomes of the commands -/

/-- The outcome is a next state with the waiting commands of `s`: no fault and no refusal. -/
def State.AnswersNext (s : State) (o : Host.Outcome State Fault Refusal) : Prop :=
  ∃ t, o = .next t ∧ t.pending = s.pending

theorem State.answersNext_next {s t : State} (h : t.pending = s.pending) : s.AnswersNext (.next t) := ⟨t, rfl, h⟩

/-- A command whose occasion has not come leaves the state as it is (log 1). -/
theorem State.answersNext_ite {s t u : State} {p : Prop} [Decidable p] (ht : t.pending = s.pending)
    (hu : u.pending = s.pending) : s.AnswersNext (if p then .next t else .next u) := by
  split
  · exact s.answersNext_next ht
  · exact s.answersNext_next hu

/-- A take of any sort: the record leaves its own queue, not the queue of waiting commands, and its owner block acts; or
nothing changes (R150; log 1). -/
theorem State.take_answersNext (s : State) {want : CmdRecord → Bool} {act : CmdRecord → State → State}
    (hact : ∀ r u, (act r u).pending = u.pending) : s.AnswersNext (s.take want act) := by
  rcases s.take_cases want act with ⟨r, -, -, e⟩ | e
  · exact ⟨_, e, (hact r _).trans (s.beginTake_pending r)⟩
  · exact ⟨s, e, rfl⟩

theorem exec_row_answersNext {c : Command} {i : Instr} (h : c.row = some i) (s : State) : s.AnswersNext (exec i s) := by
  rw [exec_row h]
  refine s.take_answersNext fun r u => ?_
  split
  · exact c.owner_pending r u
  · rfl

theorem execPinResetRelease_answersNext (lmode adr1 adr0 : Level) (s : State) :
    s.AnswersNext (execPinResetRelease lmode adr1 adr0 s) := by
  unfold execPinResetRelease
  split
  · exact State.answersNext_next (s.releaseReset_pending lmode adr1 adr0)
  · exact State.answersNext_next rfl

theorem execIfrmFall_answersNext (s : State) : s.AnswersNext (execIfrmFall s) := by
  unfold execIfrmFall
  split
  · exact State.answersNext_next rfl
  · exact State.answersNext_ite rfl rfl

/-- Every command of the table: a take of a catalogued record, one of the other takes, a reset, or an edge of a line or
clock with the work it makes due. -/
theorem exec_answersNext (i : Instr) (s : State) : s.AnswersNext (exec i s) := by
  cases hrow : catalogued i with
  | some c => exact exec_row_answersNext (row_of_catalogued hrow) s
  | none =>
  cases i with
  | unknownCommand => exact s.take_answersNext fun r u => u.reply_pending r _ _
  | resetPartRefused =>
    simp only [exec, execResetPartRefused]
    refine s.take_answersNext fun r u => ?_
    split <;> rfl
  | resetPartRestart => exact s.take_answersNext fun _ u => u.restart_pending
  | resetPartFull => exact s.take_answersNext fun _ u => u.fullReset_pending
  | pinResetAssert lmode => exact State.answersNext_next (s.pinReset_pending lmode)
  | pinResetRelease lmode adr1 adr0 => exact execPinResetRelease_answersNext lmode adr1 adr0 s
  | messageCompletion => exact State.answersNext_ite (State.completeMessage_pending _) rfl
  | ifrmFall => exact execIfrmFall_answersNext s
  | iclkRisingEdge idat => exact State.answersNext_ite rfl rfl
  | wordFetch => exact State.answersNext_ite s.fetch_pending rfl
  | bitStrobe => exact State.answersNext_ite s.strobe_pending rfl
  | timeCounterAdvance => exact State.answersNext_next s.advanceTime_pending
  | validationCompletion => exact State.answersNext_next s.completeValidation_pending
  | refclkRisingEdge order =>
    exact State.answersNext_ite ((State.refclkEdge_pending _ order).trans s.finishEdge_pending) rfl
  | _ => cases hrow

/-- Settles O2: each operation that a command is made of leaves the queue of waiting commands, and every outcome is the
state that these operations make. -/
theorem everyCommandAnswersNext : Obligations.EveryCommandAnswersNext := exec_answersNext

/-! ### A step -/

/-- An empty queue idles (log 3). -/
theorem step_nil {s : State} (h : s.pending = []) : step s = .next s := by
  simp [step, h]

/-- Settles O1, by the two cases of the queue. -/
theorem stepRunsTheFrontCommand : Obligations.StepRunsTheFrontCommand :=
  ⟨fun c rest _ => step_cons c rest rfl, fun _ => step_nil⟩

end Sys2Proof.Machine
